-- ==== Sys2Proof/Word.lean ====
section
/-! DEFINITION. The number types of RDX (spec 00_scope.md R8, R10) and byte strings. -/

namespace Sys2Proof

/-- `u8` of 00_scope.md R10: one input byte, one raw mode byte. -/
abbrev Byte := BitVec 8

/-- A signed value of `INT_W` bits as the integer it stands for: tank level and state code. `INT_W` is a
parameter (00_scope.md R8, `Config.intW`), so the width is kept by the operations that make such a value
and not by its type (log 9). -/
abbrev IntW := Int

/-- A byte string; index 0 is the first byte received (00_scope.md R10). -/
abbrev Bytes := List Byte

end Sys2Proof
end

