-- ==== Sys2Proof/Config.lean ====
section
/-! DEFINITION. The configuration RDX is built with (spec 00_scope.md R8, 10_state.md R32, R33), the
value types of its channels (30_encoding.md R100, R103), and the two open values of the spec as
constants nothing can evaluate. -/

namespace Sys2Proof

/-- `MODE_T` (10_state.md R24): the mode text of a classification. -/
inductive ModeTxt where
  | normal | holiday | refresh | unknown
  deriving DecidableEq, Repr

/-- `STATUS_T` (10_state.md R25). -/
inductive StatusTxt where
  | idle | filling | draining | unknown
  deriving DecidableEq, Repr

/-- `SOURCE_T` (10_state.md R26). -/
inductive SourceTxt where
  | rainwater | mains | unknown
  deriving DecidableEq, Repr

/-- The mode field of a ModeMapping row: never `Unknown` (10_state.md R32). -/
inductive RowMode where
  | normal | holiday | refresh
  deriving DecidableEq, Repr

/-- The status field of a ModeMapping row: never `Unknown` (10_state.md R32). -/
inductive RowStatus where
  | idle | filling | draining
  deriving DecidableEq, Repr

/-- The source field of a ModeMapping row: never `Unknown` (10_state.md R32). -/
inductive RowSource where
  | rainwater | mains
  deriving DecidableEq, Repr

/-- One ModeMapping row (10_state.md R32). -/
structure ModeRow where
  code     : Byte
  mode     : RowMode
  status   : RowStatus
  source   : RowSource
  isMarker : Bool
  deriving DecidableEq, Repr

/-- The six last-published-value registers (10_state.md R21 to R26); `none` is `NONE`. The same
record is the type of the parameter `INIT_LAST` (00_scope.md R8). -/
structure LastRegs where
  level     : Option IntW
  modeRaw   : Option Byte
  stateRaw  : Option IntW
  modeTxt   : Option ModeTxt
  statusTxt : Option StatusTxt
  sourceTxt : Option SourceTxt
  deriving DecidableEq, Repr

/-- `SINK_EN[c]` for the six channels (00_scope.md R8). -/
structure SinkEn where
  level     : Bool
  modeRaw   : Bool
  stateRaw  : Bool
  modeTxt   : Bool
  statusTxt : Bool
  sourceTxt : Bool
  deriving DecidableEq, Repr

/-- `JSON_ACCEPT` (00_scope.md R8, 42_json_decoder.md R194). -/
inductive JsonAccept where
  | nonneg | notMinus1
  deriving DecidableEq, Repr

/-- The answers `HEX2_MALFORMED` admits for one pair (41_record_decoder.md R145): a non-empty subset of
{IGNORE} and the bytes. `none` is IGNORE. -/
inductive Hex2Answers where
  /-- the whole of {IGNORE} and 0 to 255 -/
  | any
  /-- the answers listed, at least one -/
  | these (first : Option Byte) (more : List (Option Byte))
  deriving DecidableEq, Repr

/-- The answers of one malformed pair. -/
structure Hex2Row where
  c1      : Byte
  c2      : Byte
  answers : Hex2Answers
  deriving DecidableEq, Repr

/-- `HEX2_MALFORMED` (R145): any relation from pairs of characters to non-empty subsets of {IGNORE} and
the bytes, as plain data. The first row of a pair counts, and a pair with no row has `others`. -/
structure Hex2Relation where
  rows   : List Hex2Row
  others : Hex2Answers
  deriving DecidableEq, Repr

/-- The parameters of 00_scope.md R8, which a model takes as an argument; the draw `DEC_OVERFLOW` is
`Config.openDecOverflow`. -/
structure Config where
  bufCap          : Nat
  intW            : Nat
  modeTable       : List ModeRow
  sinkEn          : SinkEn
  hexLeadRequired : Bool
  hex2Relation    : Hex2Relation
  jsonAccept      : JsonAccept
  initLast        : LastRegs
  deriving DecidableEq, Repr

/-- DESIGN CHOICE, safe (log 4). What is drawn where `HEX2_MALFORMED` (41_record_decoder.md R145) admits
more than one answer to a pair: `none` is IGNORE. The first argument numbers the draw, so two equal
pairs may get two answers. -/
opaque Config.openHex2 : Nat → Byte → Byte → Option Byte

/-- DESIGN CHOICE, safe (log 5). The draw `DEC_OVERFLOW` (42_json_decoder.md R193): any value of
`w = INT_W` bits, a new one for each draw. -/
opaque Config.openDecOverflow (w : Nat) : Nat → BitVec w

end Sys2Proof
end

