-- ==== Sys2Proof/Machine/Patterns.lean ====
section
/-! DEFINITION. The literal characters and patterns of RDX (spec 00_scope.md R9, R12), the string
primitives (R11), the bounds of a JSON record (40_reassembler.md R114, R115), and the three level
maps of 30_encoding.md: byte class (R71), hex record row (R82, R143), mode code. -/

namespace Sys2Proof

/-! ## Characters (R12; PRESUMED by the spec, log 7) -/

def chCR : Byte := 0x0D#8
def chLF : Byte := 0x0A#8
def chLT : Byte := 0x3C#8
def chQuote : Byte := 0x22#8
def chMinus : Byte := 0x2D#8
def chPlus : Byte := 0x2B#8
def chZero : Byte := 0x30#8

/-! ## Constants (R9) -/

/-- `JSON_OPEN`: `{"tanklevels"`, 13 characters. -/
def jsonOpen : Bytes :=
  [0x7B#8, 0x22#8, 0x74#8, 0x61#8, 0x6E#8, 0x6B#8, 0x6C#8, 0x65#8, 0x76#8, 0x65#8, 0x6C#8, 0x73#8, 0x22#8]

/-- `JSON_CLOSE`: `}}`. -/
def jsonClose : Bytes := [0x7D#8, 0x7D#8]

/-- The key `top`. -/
def keyTop : Bytes := [0x74#8, 0x6F#8, 0x70#8]

/-- The key `state`. -/
def keyState : Bytes := [0x73#8, 0x74#8, 0x61#8, 0x74#8, 0x65#8]

def pre2053 : Bytes := [0x32#8, 0x30#8, 0x35#8, 0x33#8]
def pre20123 : Bytes := [0x32#8, 0x30#8, 0x31#8, 0x32#8, 0x33#8]
def pre2071 : Bytes := [0x32#8, 0x30#8, 0x37#8, 0x31#8]
def pre2010 : Bytes := [0x32#8, 0x30#8, 0x31#8, 0x30#8]
def pre30123 : Bytes := [0x33#8, 0x30#8, 0x31#8, 0x32#8, 0x33#8]
def pre40123 : Bytes := [0x34#8, 0x30#8, 0x31#8, 0x32#8, 0x33#8]
def pre4071 : Bytes := [0x34#8, 0x30#8, 0x37#8, 0x31#8]
def pre4010 : Bytes := [0x34#8, 0x30#8, 0x31#8, 0x30#8]
def pre4033 : Bytes := [0x34#8, 0x30#8, 0x33#8, 0x33#8]
def pre1053 : Bytes := [0x31#8, 0x30#8, 0x35#8, 0x33#8]

/-- The minimum stripped length of a 2053 or 1053 record (R9, 41_record_decoder.md R146). -/
def minFrameLen : Nat := 10

/-- `REFRESH_FILL_CODE` (R9). -/
def refreshFillCode : Byte := 0x00#8

/-- `IDLE_CODES` (R9). -/
def idleCodes : List Byte := [0x01#8, 0x04#8, 0x08#8]

/-! ## String primitives (R11) -/

/-- `startswith(s, p)`. -/
def startsWith (s p : Bytes) : Bool := p.isPrefixOf s

/-- `s[i:j]`. -/
def slice (s : Bytes) (i j : Nat) : Bytes := (s.drop i).take (j - i)

/-- The least index at which `p` stands in the string, from the string's start. -/
def findHead (p : Bytes) : Bytes → Option Nat
  | [] => if p.isPrefixOf [] then some 0 else none
  | c :: s => if p.isPrefixOf (c :: s) then some 0 else (findHead p s).map (· + 1)

/-- `find(s, p, k)`: the least index `i ≥ k` with `s[i:i+|p|] = p`. -/
def find (s p : Bytes) (k : Nat) : Option Nat := (findHead p (s.drop k)).map (· + k)

/-- The two indices `i`, `j` of JsonCheck (40_reassembler.md R114): the first `JSON_OPEN`, and the
first `JSON_CLOSE` after it. -/
def jsonBounds (s : Bytes) : Option (Nat × Nat) :=
  match find s jsonOpen 0 with
  | none => none
  | some i =>
    match find s jsonClose (i + jsonOpen.length) with
    | none => none
    | some j => some (i, j)

/-! ## Level 1: byte classes (R71) -/

/-- The four byte classes of 30_encoding.md R71. -/
inductive ByteClass where
  | cr | lf | lt | other
  deriving DecidableEq, Repr

/-- `class(b)` (R71). -/
def classOf (b : Byte) : ByteClass :=
  if b = chCR then .cr else if b = chLF then .lf else if b = chLT then .lt else .other

/-! ## Level 2: rows of the hex dispatcher (R82, R143) -/

/-- The rows of the hex record map of 30_encoding.md R82. -/
inductive HexRow where
  | level | ign20123 | ign2071 | ign2010 | ign30123 | ign40123 | ign4071 | ign4010 | ign4033 | mode | other
  deriving DecidableEq, Repr

/-- HexDispatch's choice for a stripped record (41_record_decoder.md R143): the first row that
matches, in the fixed priority order. -/
def hexRow (s : Bytes) : HexRow :=
  if startsWith s pre2053 && decide (minFrameLen ≤ s.length) then .level
  else if startsWith s pre20123 then .ign20123
  else if startsWith s pre2071 then .ign2071
  else if startsWith s pre2010 then .ign2010
  else if startsWith s pre30123 then .ign30123
  else if startsWith s pre40123 then .ign40123
  else if startsWith s pre4071 then .ign4071
  else if startsWith s pre4010 then .ign4010
  else if startsWith s pre4033 then .ign4033
  else if startsWith s pre1053 && decide (minFrameLen ≤ s.length) then .mode
  else .other

/-- DecodeHex's stripping of a flushed record (41_record_decoder.md R141, R142): exactly one leading
`<` goes; a record without one has no stripped form where `HEX_LEAD_REQUIRED` holds. -/
def stripLead (leadRequired : Bool) : Bytes → Option Bytes
  | [] => if leadRequired then none else some []
  | c :: s => if c = chLT then some s else if leadRequired then none else some (c :: s)

/-- First character of the payload pair, `s[4]` (30_encoding.md R74). -/
def payloadHi (s : Bytes) : Byte := s.getD 4 0

/-- Second character of the payload pair, `s[5]` (30_encoding.md R74). -/
def payloadLo (s : Bytes) : Byte := s.getD 5 0

/-- `s[6:]`, read by nothing (30_encoding.md R74, R75). -/
def payloadTail (s : Bytes) : Bytes := s.drop 6

/-! ## Level 3: mode codes (opcode_table.json) -/

/-- The mode code rows of opcode_table.json. -/
inductive ModeSel where
  | m00 | m01 | m04 | m08 | m10 | m14 | other
  deriving DecidableEq, Repr

/-- The row of the mode code table a mode byte selects. -/
def modeSel (m : Byte) : ModeSel :=
  if m = 0x00#8 then .m00
  else if m = 0x01#8 then .m01
  else if m = 0x04#8 then .m04
  else if m = 0x08#8 then .m08
  else if m = 0x10#8 then .m10
  else if m = 0x14#8 then .m14
  else .other

end Sys2Proof
end

