-- ==== Sys2Proof/Syntax.lean ====
section
/-! DEFINITION. The instructions of RDX: one constructor per row of spec/opcode_table.json, at the
three levels of 30_encoding.md (input byte, record, mode byte). -/

namespace Sys2Proof

/-- One operation of RDX. Level 1 is selected by an input byte, level 2 by a record, level 3 by a
raw mode byte (30_encoding.md R81, R82, R90). Operands are the fields the spec reads, and the rest of
the record (`tail`), which it does not. -/
inductive Instr where
  /-- FEED_CR, 40_reassembler.md R110 -/
  | feedCr
  /-- FEED_LF, R111 -/
  | feedLf
  /-- FEED_LT, R112 -/
  | feedLt
  /-- FEED_OTHER with its byte, R113 -/
  | feedOther (b : Byte)
  /-- DEC_LEVEL_2053, 41_record_decoder.md R147: payload pair `s[4] s[5]`, unread `s[6:]` -/
  | decLevel2053 (c1 c2 : Byte) (tail : Bytes)
  /-- DEC_IGN_20123, R150 -/
  | decIgn20123 (tail : Bytes)
  /-- DEC_IGN_2071, R151 -/
  | decIgn2071 (tail : Bytes)
  /-- DEC_IGN_2010, R152 -/
  | decIgn2010 (tail : Bytes)
  /-- DEC_IGN_30123, R153 -/
  | decIgn30123 (tail : Bytes)
  /-- DEC_IGN_40123, R154 -/
  | decIgn40123 (tail : Bytes)
  /-- DEC_IGN_4071, R155 -/
  | decIgn4071 (tail : Bytes)
  /-- DEC_IGN_4010, R156 -/
  | decIgn4010 (tail : Bytes)
  /-- DEC_IGN_4033, R157 -/
  | decIgn4033 (tail : Bytes)
  /-- DEC_MODE_1053, R160: payload pair `s[4] s[5]`, unread `s[6:]` -/
  | decMode1053 (c1 c2 : Byte) (tail : Bytes)
  /-- DEC_OTHER, R158: the flushed record as it stood in the buffer -/
  | decOther (record : Bytes)
  /-- DEC_JSON, 42_json_decoder.md R195: the bounded record, both markers included -/
  | decJson (record : Bytes)
  /-- MODE_00, 41_record_decoder.md R163 -/
  | mode00
  /-- MODE_01, R162 -/
  | mode01
  /-- MODE_04, R162 -/
  | mode04
  /-- MODE_08, R162 -/
  | mode08
  /-- MODE_10, R162 -/
  | mode10
  /-- MODE_14, R165 -/
  | mode14
  /-- MODE_OTHER with its byte, R161 -/
  | modeOther (m : Byte)
  deriving DecidableEq, Repr

end Sys2Proof
end

