-- ==== Sys2Proof/WellFormed.lean ====
section
/-! DEFINITION. Which instruction terms stand for words RDX can meet (spec 30_encoding.md R71, R72,
R82; 42_json_decoder.md R190). -/

namespace Sys2Proof

/-- A byte that can stand inside a record: not CR, LF or `<` (30_encoding.md R72). -/
def plainByte (b : Byte) : Bool := decide (classOf b = .other)

/-- The part of a flushed record after `<` and a prefix of `n` characters: plain bytes only, and the
whole record at most `BUF_CAP` bytes long (R72). -/
def tailFits (cap n : Nat) (tail : Bytes) : Bool := tail.all plainByte && decide (1 + n + tail.length ≤ cap)

/-- A 2053 or 1053 record: plain payload characters and a stripped length of at least 10 (R146). -/
def frameFits (cap : Nat) (c1 c2 : Byte) (tail : Bytes) : Bool :=
  plainByte c1 && plainByte c2 && decide (minFrameLen ≤ 6 + tail.length) && tailFits cap 6 tail

/-- The bytes of a flushed record: 1 to `BUF_CAP`, no CR or LF, `<` at index 0 only (R72). -/
def flushedFits (cap : Nat) : Bytes → Bool
  | [] => false
  | c :: s => (plainByte c || decide (c = chLT)) && s.all plainByte && decide (s.length + 1 ≤ cap)

/-- Whether the hex dispatcher sends the flushed record to DEC_OTHER (R82, R141). -/
def selectsOther (leadRequired : Bool) (r : Bytes) : Bool :=
  match stripLead leadRequired r with
  | none => true
  | some s => decide (hexRow s = .other)

/-- A JSON record (42_json_decoder.md R190): from `{"tanklevels"` at its start through the first `}}`
after it, which is its end; plain bytes; at most `BUF_CAP + 1` of them. -/
def jsonFits (cap : Nat) (r : Bytes) : Bool :=
  decide (jsonBounds r = some (0, r.length - jsonClose.length)) && r.all plainByte && decide (r.length ≤ cap + 1)

/-- The instruction terms that stand for words RDX can meet under a configuration. -/
def WellFormed (cfg : Config) : Instr → Bool
  | .feedCr => true
  | .feedLf => true
  | .feedLt => true
  | .feedOther b => plainByte b
  | .decLevel2053 c1 c2 tail => frameFits cfg.bufCap c1 c2 tail
  | .decIgn20123 tail => tailFits cfg.bufCap 5 tail
  | .decIgn2071 tail => tailFits cfg.bufCap 4 tail
  | .decIgn2010 tail => tailFits cfg.bufCap 4 tail
  | .decIgn30123 tail => tailFits cfg.bufCap 5 tail
  | .decIgn40123 tail => tailFits cfg.bufCap 5 tail
  | .decIgn4071 tail => tailFits cfg.bufCap 4 tail
  | .decIgn4010 tail => tailFits cfg.bufCap 4 tail
  | .decIgn4033 tail => tailFits cfg.bufCap 4 tail
  | .decMode1053 c1 c2 tail => frameFits cfg.bufCap c1 c2 tail
  | .decOther r => flushedFits cfg.bufCap r && selectsOther cfg.hexLeadRequired r
  | .decJson r => jsonFits cfg.bufCap r
  | .mode00 => true
  | .mode01 => true
  | .mode04 => true
  | .mode08 => true
  | .mode10 => true
  | .mode14 => true
  | .modeOther m => decide (modeSel m = .other)

end Sys2Proof
end

