-- ==== Sys2Proof/Decode.lean ====
section
/-! DEFINITION. Decoding a word of any of the three levels, total and refusing by name, the encoder,
and the numbering of spec/opcode_table.json (30_encoding.md R71, R81, R82, R90; log 10). -/

namespace Sys2Proof

/-- Where a word comes from; it picks the level of 30_encoding.md the word is read at. -/
inductive Source where
  /-- one byte on BYTE_IN (level 1) -/
  | byteIn
  /-- a record flushed at CR, LF or `<` (level 2) -/
  | flushed
  /-- a record that JsonCheck bounded (level 2) -/
  | inline
  /-- a raw mode byte (level 3) -/
  | modeByte
  deriving DecidableEq, Repr

/-- Why a byte string is no word of a source. -/
inductive DecodeError where
  /-- `byteIn` and `modeByte` words are exactly one byte (30_encoding.md R70, R95) -/
  | notOneByte
  /-- a flushed record is not empty (R72) -/
  | emptyRecord
  /-- the string is not one object from `{"tanklevels"` to the first `}}` after it (R72) -/
  | notAJsonRecord
  deriving DecidableEq, Repr

/-- Level 1 (R71, R81). -/
def decodeByte (b : Byte) : Instr :=
  match classOf b with
  | .cr => .feedCr
  | .lf => .feedLf
  | .lt => .feedLt
  | .other => .feedOther b

/-- Level 2 for a stripped record `s` of the flushed record `r` (R82, R143). -/
def decodeStripped (r s : Bytes) : Instr :=
  match hexRow s with
  | .level => .decLevel2053 (payloadHi s) (payloadLo s) (payloadTail s)
  | .ign20123 => .decIgn20123 (s.drop 5)
  | .ign2071 => .decIgn2071 (s.drop 4)
  | .ign2010 => .decIgn2010 (s.drop 4)
  | .ign30123 => .decIgn30123 (s.drop 5)
  | .ign40123 => .decIgn40123 (s.drop 5)
  | .ign4071 => .decIgn4071 (s.drop 4)
  | .ign4010 => .decIgn4010 (s.drop 4)
  | .ign4033 => .decIgn4033 (s.drop 4)
  | .mode => .decMode1053 (payloadHi s) (payloadLo s) (payloadTail s)
  | .other => .decOther r

/-- Level 2 for a flushed record (41_record_decoder.md R141). -/
def decodeFlushed (leadRequired : Bool) (r : Bytes) : Instr :=
  match stripLead leadRequired r with
  | none => .decOther r
  | some s => decodeStripped r s

/-- Level 3 (opcode_table.json). -/
def decodeMode (m : Byte) : Instr :=
  match modeSel m with
  | .m00 => .mode00
  | .m01 => .mode01
  | .m04 => .mode04
  | .m08 => .mode08
  | .m10 => .mode10
  | .m14 => .mode14
  | .other => .modeOther m

/-- The decoder: the instruction a byte string from a source is, or why it is none. -/
def decode (leadRequired : Bool) (src : Source) (w : Bytes) : Except DecodeError Instr :=
  match src with
  | .byteIn =>
    match w with
    | [b] => .ok (decodeByte b)
    | _ => .error .notOneByte
  | .flushed =>
    match w with
    | [] => .error .emptyRecord
    | c :: s => .ok (decodeFlushed leadRequired (c :: s))
  | .inline =>
    if jsonBounds w = some (0, w.length - jsonClose.length) then .ok (.decJson w) else .error .notAJsonRecord
  | .modeByte =>
    match w with
    | [m] => .ok (decodeMode m)
    | _ => .error .notOneByte

/-- The source an instruction's words come from. -/
def sourceOf : Instr → Source
  | .feedCr => .byteIn
  | .feedLf => .byteIn
  | .feedLt => .byteIn
  | .feedOther _ => .byteIn
  | .decLevel2053 _ _ _ => .flushed
  | .decIgn20123 _ => .flushed
  | .decIgn2071 _ => .flushed
  | .decIgn2010 _ => .flushed
  | .decIgn30123 _ => .flushed
  | .decIgn40123 _ => .flushed
  | .decIgn4071 _ => .flushed
  | .decIgn4010 _ => .flushed
  | .decIgn4033 _ => .flushed
  | .decMode1053 _ _ _ => .flushed
  | .decOther _ => .flushed
  | .decJson _ => .inline
  | .mode00 => .modeByte
  | .mode01 => .modeByte
  | .mode04 => .modeByte
  | .mode08 => .modeByte
  | .mode10 => .modeByte
  | .mode14 => .modeByte
  | .modeOther _ => .modeByte

/-- The encoder: the word of a well-formed instruction, as its source delivers it. A hex frame is
written with its leading `<` (30_encoding.md R73, R74). -/
def encode : Instr → Bytes
  | .feedCr => [chCR]
  | .feedLf => [chLF]
  | .feedLt => [chLT]
  | .feedOther b => [b]
  | .decLevel2053 c1 c2 tail => chLT :: (pre2053 ++ c1 :: c2 :: tail)
  | .decIgn20123 tail => chLT :: (pre20123 ++ tail)
  | .decIgn2071 tail => chLT :: (pre2071 ++ tail)
  | .decIgn2010 tail => chLT :: (pre2010 ++ tail)
  | .decIgn30123 tail => chLT :: (pre30123 ++ tail)
  | .decIgn40123 tail => chLT :: (pre40123 ++ tail)
  | .decIgn4071 tail => chLT :: (pre4071 ++ tail)
  | .decIgn4010 tail => chLT :: (pre4010 ++ tail)
  | .decIgn4033 tail => chLT :: (pre4033 ++ tail)
  | .decMode1053 c1 c2 tail => chLT :: (pre1053 ++ c1 :: c2 :: tail)
  | .decOther r => r
  | .decJson r => r
  | .mode00 => [0x00#8]
  | .mode01 => [0x01#8]
  | .mode04 => [0x04#8]
  | .mode08 => [0x08#8]
  | .mode10 => [0x10#8]
  | .mode14 => [0x14#8]
  | .modeOther m => [m]

/-! ## The numbering of spec/opcode_table.json (log 10) -/

/-- The `n` bytes of a number, the first character in the most significant byte (the table's
`match_on`). -/
def tableBytes (n w : Nat) : Bytes :=
  match n with
  | 0 => []
  | k + 1 => BitVec.ofNat 8 (w / 256 ^ k) :: tableBytes k w

/-- The character of a hex digit 0 to 15 (41_record_decoder.md R144). -/
def hexChar (d : Nat) : Byte := if d < 10 then BitVec.ofNat 8 (0x30 + d) else BitVec.ofNat 8 (0x37 + d)

/-- A mode byte as the payload pair of a mode frame (41_record_decoder.md R145). -/
def hexPair (m : Byte) : Bytes := [hexChar (m.toNat / 16), hexChar (m.toNat % 16)]

/-- The operand characters the table gives no bits, as zeros in the stream's own text: the digit `0`
up to the minimum frame length (log 10). -/
def padZeros (s : Bytes) : Bytes := s ++ List.replicate (minFrameLen - s.length) chZero

/-- A word of the table laid out as its source delivers it. A one-byte word that a MODE row fixes is
that mode code; every other one-byte word is a byte of BYTE_IN; a word that opens with `JSON_OPEN`
is completed by `JSON_CLOSE`; any other word is the start of a stripped hex record (log 10). -/
def tableWord (nbits w : Nat) : Source × Bytes :=
  match tableBytes (nbits / 8) w with
  | [b] => if modeSel b = .other then (.byteIn, [b]) else (.modeByte, [b])
  | bs => if startsWith bs jsonOpen then (.inline, bs ++ jsonClose) else (.flushed, chLT :: padZeros bs)

/-- The instruction the decoder reads from a word numbered as spec/opcode_table.json numbers it. -/
def decodeTableWord (nbits w : Nat) : Option Instr :=
  match decode true (tableWord nbits w).1 (tableWord nbits w).2 with
  | .ok i => some i
  | .error _ => none

end Sys2Proof
end

