-- ==== Sys2Proof/Machine/Boot.lean ====
section
/-! DEFINITION. The configurations a reset can sample (spec 70_reset_and_hazards.md R250, R253): the
reference configuration of 92_eei_decisions.md D18, and the one `State.reset` takes (log 3). -/

namespace Sys2Proof.Machine

/-- `INIT_LAST`: NONE on every channel (00_scope.md R8). -/
def initLastNone : LastRegs := ⟨none, none, none, none, none, none⟩

/-- The reference table of 30_encoding.md R96; its † fields are placeholders no source pins. -/
def referenceTable : List ModeRow :=
  [⟨0x00#8, .normal, .filling, .rainwater, false⟩,
   ⟨0x01#8, .normal, .idle, .rainwater, false⟩,
   ⟨0x04#8, .normal, .idle, .mains, false⟩,
   ⟨0x08#8, .holiday, .idle, .rainwater, false⟩,
   ⟨0x10#8, .refresh, .draining, .rainwater, true⟩]

/-- The reference configuration (92_eei_decisions.md D18), which the test vectors run under. -/
def referenceConfig : Config where
  bufCap := 500
  intW := 32
  modeTable := referenceTable
  sinkEn := ⟨true, true, true, true, true, true⟩
  hexLeadRequired := true
  hex2Relation := ⟨[], .these none []⟩
  jsonAccept := .nonneg
  initLast := initLastNone

/-- DESIGN CHOICE, unsafe (log 3): the configuration `State.reset` samples. Where 00_scope.md R8
gives this hardware's value it is that; the OPEN table and sinks are the reference ones; the OPEN
relation `HEX2_MALFORMED` is the widest there is. -/
def resetConfig : Config := { referenceConfig with hex2Relation := ⟨[], .any⟩ }

end Sys2Proof.Machine
end

