-- ==== Sys2Proof/Machine/Events.lean ====
section
/-! DEFINITION. The output events of RDX and their encodings (spec 30_encoding.md R100 to R104), and
what the two inputs can carry (10_state.md R36, R37). -/

namespace Sys2Proof.Machine

/-- The six output channels (30_encoding.md R100). -/
inductive Channel where
  | level | modeRaw | stateRaw | modeTxt | statusTxt | sourceTxt
  deriving DecidableEq, Repr

/-- The payload of `PUB(c, v)`: a value of the channel's own type (R100, R101). -/
inductive Pub where
  | level     (v : IntW)
  | modeRaw   (v : Byte)
  | stateRaw  (v : IntW)
  | modeTxt   (v : ModeTxt)
  | statusTxt (v : StatusTxt)
  | sourceTxt (v : SourceTxt)
  deriving DecidableEq, Repr

/-- An event on EV_OUT (R101); there is no other kind. -/
inductive Event where
  /-- `PUB(c, v)`, emitted only by the publish filter (41_record_decoder.md R140) -/
  | pub  (p : Pub)
  /-- `WARN(code)`, emitted only for an unmapped mode byte (R165, 30_encoding.md R104) -/
  | warn (code : Byte)
  deriving DecidableEq, Repr

/-- One transfer on the inputs: a byte on BYTE_IN (10_state.md R36) or RST asserted (R37). -/
inductive Stimulus where
  | byte (b : Byte)
  | rst
  deriving DecidableEq, Repr

/-- The channel of a publish (R100). -/
def Pub.channel : Pub → Channel
  | .level _ => .level
  | .modeRaw _ => .modeRaw
  | .stateRaw _ => .stateRaw
  | .modeTxt _ => .modeTxt
  | .statusTxt _ => .statusTxt
  | .sourceTxt _ => .sourceTxt

/-- Channel ids (R100). -/
def Channel.id : Channel → Nat
  | .level => 0
  | .modeRaw => 1
  | .stateRaw => 2
  | .modeTxt => 3
  | .statusTxt => 4
  | .sourceTxt => 5

/-- Event kind codes (R101). -/
def Event.kindCode : Event → Nat
  | .pub _ => 0
  | .warn _ => 1

/-- Codes of the mode texts (R103). -/
def modeTxtCode : ModeTxt → Nat
  | .normal => 0
  | .holiday => 1
  | .refresh => 2
  | .unknown => 3

/-- Codes of the status texts (R103). -/
def statusTxtCode : StatusTxt → Nat
  | .idle => 0
  | .filling => 1
  | .draining => 2
  | .unknown => 3

/-- Codes of the source texts (R103). -/
def sourceTxtCode : SourceTxt → Nat
  | .rainwater => 0
  | .mains => 1
  | .unknown => 2

/-- What a text sink is handed: the string as the source spells it (R103). -/
def modeTxtSpelling : ModeTxt → String
  | .normal => "Normal"
  | .holiday => "Holiday"
  | .refresh => "Refresh"
  | .unknown => "Unknown"

/-- See `modeTxtSpelling` (R103). -/
def statusTxtSpelling : StatusTxt → String
  | .idle => "Idle"
  | .filling => "Filling"
  | .draining => "Draining"
  | .unknown => "Unknown"

/-- See `modeTxtSpelling` (R103). -/
def sourceTxtSpelling : SourceTxt → String
  | .rainwater => "Rainwater"
  | .mains => "Mains"
  | .unknown => "Unknown"

/-- A publish's value as a number: integers as they are (R102), texts by their
code (R103). -/
def Pub.number : Pub → Int
  | .level v => v
  | .modeRaw v => v.toNat
  | .stateRaw v => v
  | .modeTxt v => modeTxtCode v
  | .statusTxt v => statusTxtCode v
  | .sourceTxt v => sourceTxtCode v

/-- `SINK_EN[c]` (00_scope.md R8). -/
def sinkEnabled (e : SinkEn) : Channel → Bool
  | .level => e.level
  | .modeRaw => e.modeRaw
  | .stateRaw => e.stateRaw
  | .modeTxt => e.modeTxt
  | .statusTxt => e.statusTxt
  | .sourceTxt => e.sourceTxt

end Sys2Proof.Machine
end

