-- ==== Sys2Proof/Machine/State.lean ====
section
/-! DEFINITION. The state of RDX as plain data, the reasons a step can stop (none but the missing
meaning), and the machine right after reset (spec 10_state.md, 70_reset_and_hazards.md R250). -/

namespace Sys2Proof.Machine

/-- The storage of RDX: the bytes `BUF[0:LEN]` of the pending buffer (20_memory.md R50). RDX has no
address space (R53). The list is the canonical form: an index at or above LEN holds nothing, and
equal buffers are equal lists (log 8). -/
abbrev Memory := Bytes

/-- RDX has no fatal error path and takes no trap (60_exceptions.md R220, R226): no fault exists. -/
inductive Fault where
  deriving DecidableEq, Repr

/-- Why an instruction has no outcome. -/
inductive Refusal where
  /-- raised by `exec` for an instruction without a meaning yet; safe. No arm raises it. -/
  | notModelled (mnemonic : String)
  deriving DecidableEq, Repr

/-- All the state of RDX (10_state.md R20 to R28), its configuration (R32, R33), its two ports, and
the model's draw counter. -/
structure State where
  /-- BUF and LEN (R20, 20_memory.md R50) -/
  buf       : Memory
  /-- the six LAST_* registers (R21 to R26) -/
  last      : LastRegs
  /-- IN_REFRESH (R28) -/
  inRefresh : Bool
  /-- the configuration sampled at reset, constant afterwards (R33, R38) -/
  cfg       : Config
  /-- what stands on BYTE_IN and RST and is not yet taken, oldest first (R35 to R37; log 1) -/
  input     : List Stimulus
  /-- every event emitted so far, in order (R39, R40, R42; log 2) -/
  evOut     : List Event
  /-- the model's own: how many open values have been drawn (log 6) -/
  draws     : Nat
  deriving DecidableEq, Repr

/-- The three phases of the reassembler (10_state.md R30). -/
inductive Phase where
  | idle | accHex | accOther
  deriving DecidableEq, Repr

/-- RDX right after a reset that sampled `cfg` (70_reset_and_hazards.md R250), with nothing on its
inputs yet. -/
def State.resetWith (cfg : Config) : State where
  buf := []
  last := cfg.initLast
  inRefresh := false
  cfg := cfg
  input := []
  evOut := []
  draws := 0

/-- RDX right after reset (R250), under the configuration of log 3. -/
def State.reset : State := State.resetWith resetConfig

end Sys2Proof.Machine
end

