-- ==== Sys2Proof/Machine/Ops.lean ====
section
/-! DEFINITION. The shared operations over the pending buffer (spec 20_memory.md R51), the event
output (10_state.md R40), the registers (41_record_decoder.md R140), reset (70_reset_and_hazards.md
R250) and the inputs (10_state.md R36, R37). RDX takes no exception (60_exceptions.md R226), so there
is no operation that takes or returns from one. -/

namespace Sys2Proof.Machine

/-! ## The pending buffer -/

/-- `LEN` (20_memory.md R50). -/
def Memory.len (m : Memory) : Nat := List.length m

/-- `BUF[i]`: a byte for `i < LEN`, nothing from LEN on (R50, R51). -/
def Memory.read (m : Memory) (i : Nat) : Option Byte := m[i]?

/-- `BufAppend(b)` on the bytes (R51). -/
def Memory.append (m : Memory) (b : Byte) : Memory := m ++ [b]

/-- The invariants of 40_reassembler.md R120 on the bytes: (a) LEN at most `cap`, which is BUF_CAP, (b) no CR and no
LF, (c) `<` at index 0 only, (d) no `JSON_OPEN` followed by a `JSON_CLOSE`. -/
def Memory.wf (cap : Nat) (m : Memory) : Bool :=
  decide (Memory.len m ≤ cap)
    && m.all (fun b => decide (b ≠ chCR) && decide (b ≠ chLF))
    && m.tail.all (fun b => decide (b ≠ chLT))
    && decide (jsonBounds m = none)

/-- `PHASE(BUF)` on the bytes (10_state.md R30). -/
def Memory.phase : Memory → Phase
  | [] => .idle
  | c :: _ => if c = chLT then .accHex else .accOther

/-- `BufAppend(b)` (R51). -/
def bufAppend (b : Byte) (s : State) : State := { s with buf := Memory.append s.buf b }

/-- `BufClear()` (R51). -/
def bufClear (s : State) : State := { s with buf := [] }

/-- `BufSetLT()` (R51). -/
def bufSetLT (s : State) : State := { s with buf := [chLT] }

/-- `PHASE` (10_state.md R30). -/
def State.phase (s : State) : Phase := Memory.phase s.buf

/-! ## Events and the publish filter -/

/-- `emit(ev)` (10_state.md R40). -/
def emit (e : Event) (s : State) : State := { s with evOut := s.evOut ++ [e] }

/-- `LAST[c] = v` of a publish's own channel; `NONE` equals no value (00_scope.md R10, R11). -/
def holds (r : LastRegs) : Pub → Bool
  | .level v => decide (r.level = some v)
  | .modeRaw v => decide (r.modeRaw = some v)
  | .stateRaw v => decide (r.stateRaw = some v)
  | .modeTxt v => decide (r.modeTxt = some v)
  | .statusTxt v => decide (r.statusTxt = some v)
  | .sourceTxt v => decide (r.sourceTxt = some v)

/-- `LAST[c] <- v` on the register of a publish's own channel. -/
def store (r : LastRegs) : Pub → LastRegs
  | .level v => { r with level := some v }
  | .modeRaw v => { r with modeRaw := some v }
  | .stateRaw v => { r with stateRaw := some v }
  | .modeTxt v => { r with modeTxt := some v }
  | .statusTxt v => { r with statusTxt := some v }
  | .sourceTxt v => { r with sourceTxt := some v }

/-- The event a publish emits where its sink is enabled (41_record_decoder.md R140). -/
def deliverPub (p : Pub) (s : State) : State :=
  if sinkEnabled s.cfg.sinkEn p.channel then emit (.pub p) s else s

/-- `Publish(c, v)` (41_record_decoder.md R140): nothing where the register already holds the value;
else the register is written, sink or no sink, and an enabled sink gets the event. -/
def publish (p : Pub) (s : State) : State :=
  if holds s.last p then s else deliverPub p { s with last := store s.last p }

/-- A publish under a condition (42_json_decoder.md R195). -/
def publishIf (c : Bool) (p : Pub) (s : State) : State := if c then publish p s else s

/-- One more open value has been drawn (log 6). -/
def countDraw (s : State) : State := { s with draws := s.draws + 1 }

/-! ## Outcomes, reset, inputs -/

/-- Go on with `f` after an outcome that is a next state. -/
def mapNext (f : State → State) : Host.Outcome State Fault Refusal → Host.Outcome State Fault Refusal
  | .next t => .next (f t)
  | .fault r => .fault r
  | .refused r => .refused r

/-- RST asserted (10_state.md R37, 70_reset_and_hazards.md R250): every register takes its reset
value and no event is emitted. The static configuration is sampled again, so it stays (R38; log 6);
events already emitted have left RDX (R39; log 2). -/
def assertReset (s : State) : State := { s with buf := [], last := s.cfg.initLast, inRefresh := false }

/-- What a step finds on the inputs. -/
inductive Fetched where
  /-- nothing: RDX is idle (60_exceptions.md R236) -/
  | idle
  /-- RST, and the state with it taken off the input -/
  | rst (t : State)
  /-- a byte of BYTE_IN, and the state with it taken off the input -/
  | byte (b : Byte) (t : State)

/-- Take the oldest transfer off the inputs (10_state.md R36; 20_memory.md R57: a byte is fed exactly
once). -/
def fetch (s : State) : Fetched :=
  match s.input with
  | [] => .idle
  | .rst :: rest => .rst { s with input := rest }
  | .byte b :: rest => .byte b { s with input := rest }

end Sys2Proof.Machine
end

