-- ==== Sys2Proof/Machine/Flags.lean ====
section
/-! DEFINITION. The mode table lookup, the one flag IN_REFRESH and what is resolved from it (spec
41_record_decoder.md R161 to R163, R167), and what a legal table is (30_encoding.md R90 to R92). -/

namespace Sys2Proof.Machine

/-- `Lookup(m)` (R161): linear scan, first match wins. -/
def lookup : List ModeRow → Byte → Option ModeRow
  | [], _ => none
  | r :: t, m => if r.code = m then some r else lookup t m

/-- `UpdateRefresh(m, row)` (R162): the new value of IN_REFRESH. The idle-code test is read literally
and does not ask for a row. -/
def nextRefresh (m : Byte) (row : Option ModeRow) (old : Bool) : Bool :=
  if (row.map ModeRow.isMarker) = some true then true
  else if m ∈ idleCodes then false
  else old

/-- A row's mode as text (10_state.md R32). -/
def rowModeTxt : RowMode → ModeTxt
  | .normal => .normal
  | .holiday => .holiday
  | .refresh => .refresh

/-- A row's status as text. -/
def rowStatusTxt : RowStatus → StatusTxt
  | .idle => .idle
  | .filling => .filling
  | .draining => .draining

/-- A row's source as text. -/
def rowSourceTxt : RowSource → SourceTxt
  | .rainwater => .rainwater
  | .mains => .mains

/-- `ResolveMode(m, row)` (R163), with the updated IN_REFRESH. -/
def resolveMode (m : Byte) (row : Option ModeRow) (inRefresh : Bool) : ModeTxt :=
  match row with
  | none => .unknown
  | some r => if inRefresh = true ∧ m = refreshFillCode then .refresh else rowModeTxt r.mode

/-- The status of a classification (R167). -/
def resolveStatus (row : Option ModeRow) : StatusTxt :=
  match row with
  | none => .unknown
  | some r => rowStatusTxt r.status

/-- The source of a classification (R167). -/
def resolveSource (row : Option ModeRow) : SourceTxt :=
  match row with
  | none => .unknown
  | some r => rowSourceTxt r.source

/-- The row of an idle code (30_encoding.md R92). -/
def idleRowOk (r : ModeRow) : Bool := decide (r.status = .idle) && !r.isMarker

/-- What 30_encoding.md R90 to R92 ask of MODE_TABLE. -/
def tableOk (t : List ModeRow) : Bool :=
  (lookup t 0x10#8).any (fun r => decide (r.mode = .refresh) && decide (r.status = .draining)
      && decide (r.source = .rainwater) && r.isMarker)
    && (lookup t 0x00#8).any (fun r => decide (r.mode = .normal) && !r.isMarker)
    && (lookup t 0x01#8).any (fun r => decide (r.mode = .normal) && idleRowOk r)
    && (lookup t 0x04#8).any idleRowOk
    && (lookup t 0x08#8).any idleRowOk
    && (lookup t 0x14#8).isNone

end Sys2Proof.Machine
end

