-- ==== Sys2Proof/Machine/ModeCodes.lean ====
section
/-! DEFINITION. The meanings of the mode-code rows (level 3 of spec 30_encoding.md): what
DEC_MODE_1053 does once it has its mode byte (41_record_decoder.md R160 to R167; log 11). -/

namespace Sys2Proof.Machine

/-- The warning of an unmapped mode byte (R165, 60_exceptions.md R230). -/
def warnIfUnmapped (m : Byte) (row : Option ModeRow) (s : State) : State :=
  match row with
  | none => emit (.warn m) s
  | some _ => s

/-- The four publishes of a mode frame in their order (R160, R164). -/
def publishMode (m : Byte) (mode : ModeTxt) (status : StatusTxt) (source : SourceTxt) (s : State) : State :=
  publish (.sourceTxt source) (publish (.statusTxt status) (publish (.modeTxt mode) (publish (.modeRaw m) s)))

/-- `DEC_MODE_1053` after its payload is read (R160): lookup, warning, flag update, classification
with the updated flag, publishes. -/
def classify (m : Byte) (s : State) : State :=
  let row := lookup s.cfg.modeTable m
  let flag := nextRefresh m row s.inRefresh
  publishMode m (resolveMode m row flag) (resolveStatus row) (resolveSource row)
    { warnIfUnmapped m row s with inRefresh := flag }

/-- MODE_00, the refresh-fill code (R163). -/
def execMode00 (s : State) : Host.Outcome State Fault Refusal := .next (classify 0x00#8 s)

/-- MODE_01, an idle code (R162). -/
def execMode01 (s : State) : Host.Outcome State Fault Refusal := .next (classify 0x01#8 s)

/-- MODE_04, an idle code (R162). -/
def execMode04 (s : State) : Host.Outcome State Fault Refusal := .next (classify 0x04#8 s)

/-- MODE_08, an idle code (R162). -/
def execMode08 (s : State) : Host.Outcome State Fault Refusal := .next (classify 0x08#8 s)

/-- MODE_10, the known refresh marker (R162). -/
def execMode10 (s : State) : Host.Outcome State Fault Refusal := .next (classify 0x10#8 s)

/-- MODE_14, pinned unmapped (R165). -/
def execMode14 (s : State) : Host.Outcome State Fault Refusal := .next (classify 0x14#8 s)

/-- MODE_OTHER, any other mode byte (R161). -/
def execModeOther (m : Byte) (s : State) : Host.Outcome State Fault Refusal := .next (classify m s)

/-- The mode-code row a mode byte selects, run (opcode_table.json level 3). -/
def runModeByte (m : Byte) (s : State) : Host.Outcome State Fault Refusal :=
  match modeSel m with
  | .m00 => execMode00 s
  | .m01 => execMode01 s
  | .m04 => execMode04 s
  | .m08 => execMode08 s
  | .m10 => execMode10 s
  | .m14 => execMode14 s
  | .other => execModeOther m s

end Sys2Proof.Machine
end

