-- ==== Sys2Proof/Machine/Operands.lean ====
section
/-! DEFINITION. The operand forms: the two-hex-digit payload (spec 41_record_decoder.md R144, R145)
and the decimal fields of a JSON record (42_json_decoder.md R191 to R194). -/

namespace Sys2Proof.Machine

/-! ## Hex payload -/

/-- `hv(c)` (41_record_decoder.md R144): `none` is NOTHEX. -/
def hv (c : Byte) : Option Nat :=
  if 0x30 ≤ c.toNat ∧ c.toNat ≤ 0x39 then some (c.toNat - 0x30)
  else if 0x41 ≤ c.toNat ∧ c.toNat ≤ 0x46 then some (c.toNat - 0x37)
  else if 0x61 ≤ c.toNat ∧ c.toNat ≤ 0x66 then some (c.toNat - 0x57)
  else none

/-- `hex2` for two hex digits (R145); `none` where one of them is no hex digit. -/
def hexPairValue (c1 c2 : Byte) : Option Byte :=
  match hv c1, hv c2 with
  | some h, some l => some (BitVec.ofNat 8 (16 * h + l))
  | _, _ => none

/-- The answers that rows of `HEX2_MALFORMED` admit for a pair, and `others` for a pair with no row
(R145). -/
def hex2AnswersIn (others : Hex2Answers) (c1 c2 : Byte) : List Hex2Row → Hex2Answers
  | [] => others
  | r :: t => if r.c1 = c1 ∧ r.c2 = c2 then r.answers else hex2AnswersIn others c1 c2 t

/-- `HEX2_MALFORMED(c1, c2)` (R145). -/
def hex2Answers (rel : Hex2Relation) (c1 c2 : Byte) : Hex2Answers := hex2AnswersIn rel.others c1 c2 rel.rows

/-- Whether `r` is one of the answers (R145: "any r in HEX2_MALFORMED(c1, c2)"). -/
def hex2Allows (a : Hex2Answers) (r : Option Byte) : Bool :=
  match a with
  | .any => true
  | .these first more => decide (r ∈ first :: more)

/-- One of the answers: what was drawn if it is among them, else the first (log 4). -/
def hex2Pick (a : Hex2Answers) (drawn : Option Byte) : Option Byte :=
  match a with
  | .any => drawn
  | .these first more => if drawn ∈ first :: more then drawn else first

/-- A malformed pair's answer (R145): the only one where there is one, as IGNORE in the reference
relation, else a free value among those the relation admits (log 4). -/
def hex2Malformed (c1 c2 : Byte) (s : State) : Option Byte × State :=
  match hex2Answers s.cfg.hex2Relation c1 c2 with
  | .these r [] => (r, s)
  | a => (hex2Pick a (Config.openHex2 s.draws c1 c2), countDraw s)

/-- `hex2(c1, c2)` (R145): a byte or IGNORE (`none`), and the state after any draw. -/
def hex2 (c1 c2 : Byte) (s : State) : Option Byte × State :=
  match hexPairValue c1 c2 with
  | some v => (some v, s)
  | none => hex2Malformed c1 c2 s

/-- `zext_INT_W(v)` of a byte (00_scope.md R11), read as the signed number the register holds. DESIGN CHOICE
where `w` is below 9 and the byte's value does not fit (log 15). -/
def zextInt (w : Nat) (v : Byte) : IntW := (v.setWidth w).toInt

/-! ## JSON fields -/

/-- The pattern `"k":"` of a key (42_json_decoder.md R191). -/
def keyPattern (k : Bytes) : Bytes := chQuote :: (k ++ [chQuote, 0x3A#8, chQuote])

/-- `FieldText(rec, k)` (R191): `none` is ABSENT. -/
def fieldText (r k : Bytes) : Option Bytes :=
  match find r (keyPattern k) 0 with
  | none => none
  | some i =>
    match find r [chQuote] (i + (keyPattern k).length) with
    | none => none
    | some j => some (slice r (i + (keyPattern k).length) j)

/-- The white space DecParse skips (R192). -/
def isSpace (c : Byte) : Bool := c == 0x20#8 || c == 0x09#8 || c == 0x0B#8 || c == 0x0C#8

/-- A decimal digit (R192). -/
def isDigit (c : Byte) : Bool := decide (0x30 ≤ c.toNat) && decide (c.toNat ≤ 0x39)

/-- The number after leading digits are read onto `n` (R192); stops at the first non-digit. -/
def readDigits (n : Nat) : Bytes → Nat
  | [] => n
  | c :: t => if isDigit c then readDigits (10 * n + (c.toNat - 0x30)) t else n

/-- DecParse's number after the white space: an optional sign, then digits (R192). -/
def readSigned : Bytes → Int
  | [] => 0
  | c :: t =>
    if c = chMinus then -(readDigits 0 t : Int)
    else if c = chPlus then (readDigits 0 t : Int)
    else (readDigits 0 (c :: t) : Int)

/-- DecParse's mathematical integer (R192). -/
def decText (t : Bytes) : Int := readSigned (t.dropWhile isSpace)

/-- The signed range of `w = INT_W` bits (R192). DESIGN CHOICE at `w = 0`, a width the spec gives no
meaning: `w - 1` is then 0 and the range is -1 to 0 (log 15). -/
def inRange (w : Nat) (v : Int) : Bool := decide (-((2 ^ (w - 1) : Nat) : Int) ≤ v) && decide (v ≤ ((2 ^ (w - 1) : Nat) : Int) - 1)

/-- `DecParse(t)` (R192); a value out of range is the free draw `DEC_OVERFLOW` (R193; log 5). -/
def decParse (t : Bytes) (s : State) : IntW × State :=
  if inRange s.cfg.intW (decText t) then (decText t, s)
  else ((Config.openDecOverflow s.cfg.intW s.draws).toInt, countDraw s)

/-- The sentinel -1 of an absent field (R194). -/
def absentValue : IntW := -1

/-- A field of a JSON record as DEC_JSON reads it (R195), and the state after any draw. -/
def fieldValue (r k : Bytes) (s : State) : IntW × State :=
  match fieldText r k with
  | none => (absentValue, s)
  | some t => decParse t s

/-- `Accept(v)` (R194). -/
def accept (a : JsonAccept) (v : IntW) : Bool :=
  match a with
  | .nonneg => decide (0 ≤ v)
  | .notMinus1 => decide (v ≠ absentValue)

end Sys2Proof.Machine
end

