-- ==== Sys2Proof/Machine/HexRecords.lean ====
section
/-! DEFINITION. The meanings of the hex record rows (spec 41_record_decoder.md R147 to R160) and the
hex dispatcher over them (R141, R143). -/

namespace Sys2Proof.Machine

/-- A level frame once its payload is read (R147): nothing for IGNORE, else a publish on LEVEL. -/
def levelFrame : Option Byte × State → State
  | (none, t) => t
  | (some v, t) => publish (.level (zextInt t.cfg.intW v)) t

/-- A mode frame once its payload is read (R160): nothing for IGNORE, not even a warning (60_exceptions.md
R228), else the mode byte's row. -/
def modeFrame : Option Byte × State → Host.Outcome State Fault Refusal
  | (none, t) => .next t
  | (some m, t) => runModeByte m t

/-- A record dropped with no effect (R150 to R158). -/
def dropRecord (s : State) : State := s

/-- DEC_LEVEL_2053 (R147); `s[6:]` is read by nothing (30_encoding.md R75). -/
def execDecLevel2053 (c1 c2 : Byte) (_tail : Bytes) (s : State) : Host.Outcome State Fault Refusal :=
  .next (levelFrame (hex2 c1 c2 s))

/-- DEC_IGN_20123 (R150). -/
def execDecIgn20123 (_tail : Bytes) (s : State) : Host.Outcome State Fault Refusal := .next (dropRecord s)

/-- DEC_IGN_2071 (R151). -/
def execDecIgn2071 (_tail : Bytes) (s : State) : Host.Outcome State Fault Refusal := .next (dropRecord s)

/-- DEC_IGN_2010 (R152). -/
def execDecIgn2010 (_tail : Bytes) (s : State) : Host.Outcome State Fault Refusal := .next (dropRecord s)

/-- DEC_IGN_30123 (R153). -/
def execDecIgn30123 (_tail : Bytes) (s : State) : Host.Outcome State Fault Refusal := .next (dropRecord s)

/-- DEC_IGN_40123 (R154). -/
def execDecIgn40123 (_tail : Bytes) (s : State) : Host.Outcome State Fault Refusal := .next (dropRecord s)

/-- DEC_IGN_4071 (R155). -/
def execDecIgn4071 (_tail : Bytes) (s : State) : Host.Outcome State Fault Refusal := .next (dropRecord s)

/-- DEC_IGN_4010 (R156). -/
def execDecIgn4010 (_tail : Bytes) (s : State) : Host.Outcome State Fault Refusal := .next (dropRecord s)

/-- DEC_IGN_4033 (R157). -/
def execDecIgn4033 (_tail : Bytes) (s : State) : Host.Outcome State Fault Refusal := .next (dropRecord s)

/-- DEC_MODE_1053 (R160); `s[6:]` is read by nothing (30_encoding.md R75). -/
def execDecMode1053 (c1 c2 : Byte) (_tail : Bytes) (s : State) : Host.Outcome State Fault Refusal :=
  modeFrame (hex2 c1 c2 s)

/-- DEC_OTHER (R158): ignored, and no warning. -/
def execDecOther (_record : Bytes) (s : State) : Host.Outcome State Fault Refusal := .next (dropRecord s)

/-- `HexDispatch(s)` (R143) for a stripped record `r` of the flushed record `whole`: the row that
matches runs, the others do not. -/
def hexDispatch (whole r : Bytes) (s : State) : Host.Outcome State Fault Refusal :=
  match hexRow r with
  | .level => execDecLevel2053 (payloadHi r) (payloadLo r) (payloadTail r) s
  | .ign20123 => execDecIgn20123 (r.drop 5) s
  | .ign2071 => execDecIgn2071 (r.drop 4) s
  | .ign2010 => execDecIgn2010 (r.drop 4) s
  | .ign30123 => execDecIgn30123 (r.drop 5) s
  | .ign40123 => execDecIgn40123 (r.drop 5) s
  | .ign4071 => execDecIgn4071 (r.drop 4) s
  | .ign4010 => execDecIgn4010 (r.drop 4) s
  | .ign4033 => execDecIgn4033 (r.drop 4) s
  | .mode => execDecMode1053 (payloadHi r) (payloadLo r) (payloadTail r) s
  | .other => execDecOther whole s

/-- `DecodeHex(rec)` (R141), the entry of every flushed record (40_reassembler.md R119). -/
def dispatchFlushed (r : Bytes) (s : State) : Host.Outcome State Fault Refusal :=
  match stripLead s.cfg.hexLeadRequired r with
  | none => execDecOther r s
  | some t => hexDispatch r t s

end Sys2Proof.Machine
end

