-- ==== Sys2Proof/Machine/JsonRecord.lean ====
section
/-! DEFINITION. The meaning of DEC_JSON (spec 42_json_decoder.md R195 to R199). -/

namespace Sys2Proof.Machine

/-- The two publishes of a JSON record (R195, R198): LEVEL from `top`, then STATE_RAW from `state`,
each only if its value is accepted, neither waiting on the other (R199). -/
def publishJson (top st : IntW) (s : State) : State :=
  publishIf (accept s.cfg.jsonAccept st) (.stateRaw st) (publishIf (accept s.cfg.jsonAccept top) (.level top) s)

/-- DEC_JSON (R195): both fields are read, `top` first, then published. -/
def execDecJson (record : Bytes) (s : State) : Host.Outcome State Fault Refusal :=
  .next (publishJson (fieldValue record keyTop s).1
    (fieldValue record keyState (fieldValue record keyTop s).2).1
    (fieldValue record keyState (fieldValue record keyTop s).2).2)

end Sys2Proof.Machine
end

