-- ==== Sys2Proof/Machine/Reassembler.lean ====
section
/-! DEFINITION. The meanings of the four byte classes (spec 40_reassembler.md R110 to R119). -/

namespace Sys2Proof.Machine

/-- CR and LF (R110, R111): a non-empty buffer goes to the hex dispatcher as one record and is then
cleared; an empty one is left alone. -/
def flushBoundary (s : State) : Host.Outcome State Fault Refusal :=
  if 0 < Memory.len s.buf then mapNext bufClear (dispatchFlushed s.buf s) else .next s

/-- FEED_CR (R110). -/
def execFeedCr (s : State) : Host.Outcome State Fault Refusal := flushBoundary s

/-- FEED_LF (R111). -/
def execFeedLf (s : State) : Host.Outcome State Fault Refusal := flushBoundary s

/-- FEED_LT (R112): pending content goes first, then the buffer is `<`. -/
def execFeedLt (s : State) : Host.Outcome State Fault Refusal :=
  if 0 < Memory.len s.buf then mapNext bufSetLT (dispatchFlushed s.buf s) else .next (bufSetLT s)

/-- `OverflowGuard()` (R117): no dispatch, no event. DESIGN CHOICE where BUF_CAP is 0: it runs after
FEED_OTHER alone, so the one-byte buffer of FEED_LT stays (log 15). -/
def overflowGuard (s : State) : State := if s.cfg.bufCap < Memory.len s.buf then bufClear s else s

/-- The record JsonCheck bounds at `i` and `j`: both markers included (R115). -/
def jsonRecordAt (m : Memory) (i j : Nat) : Bytes := slice m i (j + jsonClose.length)

/-- FEED_OTHER (R113): append, then JsonCheck (R114), then, only where no record completed, the
overflow guard (R116). -/
def execFeedOther (b : Byte) (s : State) : Host.Outcome State Fault Refusal :=
  match jsonBounds (bufAppend b s).buf with
  | some (i, j) => mapNext bufClear (execDecJson (jsonRecordAt (bufAppend b s).buf i j) (bufAppend b s))
  | none => .next (overflowGuard (bufAppend b s))

end Sys2Proof.Machine
end

