-- ==== Sys2Proof/Machine/Dispatch.lean ====
section
/-! DEFINITION. One arm per instruction (spec/opcode_table.json). -/

namespace Sys2Proof.Machine

def exec (i : Instr) (s : State) : Host.Outcome State Fault Refusal :=
  match i with
  | .feedCr => Sys2Proof.Machine.execFeedCr s
  | .feedLf => Sys2Proof.Machine.execFeedLf s
  | .feedLt => Sys2Proof.Machine.execFeedLt s
  | .feedOther b => Sys2Proof.Machine.execFeedOther b s
  | .decLevel2053 c1 c2 tail => Sys2Proof.Machine.execDecLevel2053 c1 c2 tail s
  | .decIgn20123 tail => Sys2Proof.Machine.execDecIgn20123 tail s
  | .decIgn2071 tail => Sys2Proof.Machine.execDecIgn2071 tail s
  | .decIgn2010 tail => Sys2Proof.Machine.execDecIgn2010 tail s
  | .decIgn30123 tail => Sys2Proof.Machine.execDecIgn30123 tail s
  | .decIgn40123 tail => Sys2Proof.Machine.execDecIgn40123 tail s
  | .decIgn4071 tail => Sys2Proof.Machine.execDecIgn4071 tail s
  | .decIgn4010 tail => Sys2Proof.Machine.execDecIgn4010 tail s
  | .decIgn4033 tail => Sys2Proof.Machine.execDecIgn4033 tail s
  | .decMode1053 c1 c2 tail => Sys2Proof.Machine.execDecMode1053 c1 c2 tail s
  | .decOther record => Sys2Proof.Machine.execDecOther record s
  | .decJson record => Sys2Proof.Machine.execDecJson record s
  | .mode00 => Sys2Proof.Machine.execMode00 s
  | .mode01 => Sys2Proof.Machine.execMode01 s
  | .mode04 => Sys2Proof.Machine.execMode04 s
  | .mode08 => Sys2Proof.Machine.execMode08 s
  | .mode10 => Sys2Proof.Machine.execMode10 s
  | .mode14 => Sys2Proof.Machine.execMode14 s
  | .modeOther m => Sys2Proof.Machine.execModeOther m s

end Sys2Proof.Machine
end

