-- ==== Sys2Proof/Machine/Port.lean ====
section
/-! DEFINITION. How a word of spec/opcode_table.json is put where the next step takes it (log 10). -/

namespace Sys2Proof.Machine

/-- A word put where the very next step runs it. A byte is the next one on BYTE_IN. A flushed record
stands in BUF with an LF next on BYTE_IN. An inline record stands in BUF but for its last byte, which
is next on BYTE_IN. A mode byte stands in BUF as the payload of a mode frame, with an LF next. -/
def placeWord (s : State) (src : Source) (w : Bytes) : State :=
  match src with
  | .byteIn => { s with input := w.map .byte ++ s.input }
  | .flushed => { s with buf := w, input := .byte chLF :: s.input }
  | .inline => { s with buf := w.dropLast, input := .byte (w.getLastD chLF) :: s.input }
  | .modeByte =>
    { s with buf := chLT :: padZeros (pre1053 ++ hexPair (w.headD 0)), input := .byte chLF :: s.input }

end Sys2Proof.Machine
end

