-- ==== Sys2Proof/Machine/Step.lean ====
section
/-! DEFINITION. One step: the oldest transfer on the inputs (spec 00_scope.md R7, 40_reassembler.md
R123). -/

namespace Sys2Proof.Machine

/-- One step of RDX. A byte runs its class's operation to its end (R122, R123); RST resets (10_state.md
R37); with nothing on the inputs RDX keeps its state (60_exceptions.md R236; log 1). -/
def step (s : State) : Host.Outcome State Fault Refusal :=
  match fetch s with
  | .idle => .next s
  | .rst t => .next (assertReset t)
  | .byte b t => exec (decodeByte b) t

/-- `s` with a word of spec/opcode_table.json placed so that the next step runs it (log 10). -/
def State.withFetchWord (s : State) (nbits w : Nat) : State :=
  placeWord s (tableWord nbits w).1 (tableWord nbits w).2

end Sys2Proof.Machine
end

