-- ==== Sys2Proof/Machine/Conditions.lean ====
section
/-! DEFINITION. The recoverable conditions X1 to X9 (spec 60_exceptions.md R221 to R228): which of them
an operation raises in a state. They name what the meanings absorb; none is stored and none is on a
port but X4, as WARN (log 12). -/

namespace Sys2Proof.Machine

/-- The condition codes of 60_exceptions.md R221. -/
inductive Condition where
  /-- X1 OVERFLOW (R222) -/
  | overflow
  /-- X2 UNRECOGNISED (R223) -/
  | unrecognised
  /-- X3 IGNORED_HEARTBEAT -/
  | ignoredHeartbeat
  /-- X4 UNMAPPED_MODE (R224) -/
  | unmappedMode
  /-- X5 JSON_FIELD_ABSENT (R225) -/
  | jsonFieldAbsent
  /-- X6 SHORT_FRAME -/
  | shortFrame
  /-- X7 MALFORMED_PAYLOAD -/
  | malformedPayload
  /-- X8 NO_LEAD -/
  | noLead
  /-- X9 DEC_RANGE -/
  | decRange
  deriving DecidableEq, Repr

/-- X7 of a payload pair (41_record_decoder.md R145). -/
def payloadConditions (c1 c2 : Byte) : List Condition :=
  if hexPairValue c1 c2 = none then [.malformedPayload] else []

/-- X4 of a mode byte (R165). -/
def modeConditions (m : Byte) (s : State) : List Condition :=
  if lookup s.cfg.modeTable m = none then [.unmappedMode] else []

/-- X7, then X4 of the byte the pair gives, if it gives one (60_exceptions.md R228). -/
def modeFrameConditions (c1 c2 : Byte) (s : State) : List Condition :=
  payloadConditions c1 c2 ++
    match (hex2 c1 c2 s).1 with
    | none => []
    | some m => modeConditions m s

/-- X8, X6 or X2 of a record that DEC_OTHER drops (R221; 41_record_decoder.md R141, R146). -/
def otherConditions (leadRequired : Bool) (r : Bytes) : List Condition :=
  match stripLead leadRequired r with
  | none => [.noLead]
  | some t =>
    if (startsWith t pre2053 || startsWith t pre1053) && decide (t.length < minFrameLen) then [.shortFrame]
    else [.unrecognised]

/-- X5 or X9 of one JSON field, where `INT_W` is `w` (R225, 42_json_decoder.md R193). -/
def fieldConditions (w : Nat) (r k : Bytes) : List Condition :=
  match fieldText r k with
  | none => [.jsonFieldAbsent]
  | some t => if inRange w (decText t) then [] else [.decRange]

/-- The conditions of a JSON record, each field apart (60_exceptions.md R228). -/
def jsonConditions (w : Nat) (r : Bytes) : List Condition := fieldConditions w r keyTop ++ fieldConditions w r keyState

/-- The conditions of a flushed record: those of the operation it selects. -/
def flushedConditions (r : Bytes) (s : State) : List Condition :=
  match stripLead s.cfg.hexLeadRequired r with
  | none => otherConditions s.cfg.hexLeadRequired r
  | some t =>
    match hexRow t with
    | .level => payloadConditions (payloadHi t) (payloadLo t)
    | .ign20123 => [.ignoredHeartbeat]
    | .ign2071 => [.ignoredHeartbeat]
    | .ign2010 => [.ignoredHeartbeat]
    | .ign30123 => [.ignoredHeartbeat]
    | .ign40123 => [.ignoredHeartbeat]
    | .ign4071 => [.ignoredHeartbeat]
    | .ign4010 => [.ignoredHeartbeat]
    | .ign4033 => [.ignoredHeartbeat]
    | .mode => modeFrameConditions (payloadHi t) (payloadLo t) s
    | .other => otherConditions s.cfg.hexLeadRequired r

/-- The conditions of a boundary byte: those of the record it flushes, if there is one. -/
def boundaryConditions (s : State) : List Condition :=
  if 0 < Memory.len s.buf then flushedConditions s.buf s else []

/-- The conditions FEED_OTHER raises: those of the JSON record it completes, else X1 if the buffer
overflows (60_exceptions.md R228). -/
def otherByteConditions (b : Byte) (s : State) : List Condition :=
  match jsonBounds (Memory.append s.buf b) with
  | some (i, j) => jsonConditions s.cfg.intW (jsonRecordAt (Memory.append s.buf b) i j)
  | none => if s.cfg.bufCap < Memory.len (Memory.append s.buf b) then [.overflow] else []

/-- The conditions of 60_exceptions.md R221 that an operation raises in a state. -/
def raised (i : Instr) (s : State) : List Condition :=
  match i with
  | .feedCr => boundaryConditions s
  | .feedLf => boundaryConditions s
  | .feedLt => boundaryConditions s
  | .feedOther b => otherByteConditions b s
  | .decLevel2053 c1 c2 _ => payloadConditions c1 c2
  | .decIgn20123 _ => [.ignoredHeartbeat]
  | .decIgn2071 _ => [.ignoredHeartbeat]
  | .decIgn2010 _ => [.ignoredHeartbeat]
  | .decIgn30123 _ => [.ignoredHeartbeat]
  | .decIgn40123 _ => [.ignoredHeartbeat]
  | .decIgn4071 _ => [.ignoredHeartbeat]
  | .decIgn4010 _ => [.ignoredHeartbeat]
  | .decIgn4033 _ => [.ignoredHeartbeat]
  | .decMode1053 c1 c2 _ => modeFrameConditions c1 c2 s
  | .decOther r => otherConditions s.cfg.hexLeadRequired r
  | .decJson r => jsonConditions s.cfg.intW r
  | .mode00 => modeConditions 0x00#8 s
  | .mode01 => modeConditions 0x01#8 s
  | .mode04 => modeConditions 0x04#8 s
  | .mode08 => modeConditions 0x08#8 s
  | .mode10 => modeConditions 0x10#8 s
  | .mode14 => modeConditions 0x14#8 s
  | .modeOther m => modeConditions m s

end Sys2Proof.Machine
end

