-- ==== Sys2Proof/Safety.lean ====
section
/-! DEFINITION. The words claims about RDX use: a safe run (spec 60_exceptions.md R220), what a run
shows (10_state.md R42), feeding bytes (40_reassembler.md R121), the buffer invariants (R120) and the
register invariant (10_state.md R27). -/

namespace Sys2Proof.Machine

/-- A state from which no run stops (60_exceptions.md R220). -/
def Safe (s : State) : Prop := ∀ n : Nat, ∃ t, Sys2Proof.core.run n s = .next t

/-- What a run has shown so far (10_state.md R42). -/
def observation (s : State) : List Event := s.evOut

/-- The events emitted between two states of a run (10_state.md R39). -/
def newEvents (s t : State) : List Event := t.evOut.drop s.evOut.length

/-- The host puts a chunk of bytes on BYTE_IN, after what stands there (10_state.md R36). -/
def deliver (chunk : Bytes) (s : State) : State := { s with input := s.input ++ chunk.map .byte }

/-- RDX takes everything that stands on its inputs (10_state.md R36: "drains all currently-available
bytes"). -/
def drain (s : State) : Host.Outcome State Fault Refusal := Sys2Proof.core.run s.input.length s

/-- The host delivers chunk after chunk, and RDX drains each before the next comes (40_reassembler.md
R121). -/
def feedChunks : List Bytes → State → Host.Outcome State Fault Refusal
  | [], s => .next s
  | c :: cs, s =>
    match drain (deliver c s) with
    | .next t => feedChunks cs t
    | .fault r => .fault r
    | .refused r => .refused r

/-- The invariants (a) to (d) of 40_reassembler.md R120, where BUF_CAP is `cap`. -/
def BufInvariant (cap : Nat) (m : Memory) : Prop :=
  m.length ≤ cap
    ∧ (chCR ∉ m ∧ chLF ∉ m)
    ∧ (∀ k, Memory.read m k = some chLT → k = 0)
    ∧ (∀ i j, slice m i (i + 13) = jsonOpen → i + 13 ≤ j → slice m j (j + 2) ≠ jsonClose)

/-- The value a register holds, as a publish on its channel; nothing for `NONE`. -/
def regPub (r : LastRegs) : Channel → Option Pub
  | .level => r.level.map .level
  | .modeRaw => r.modeRaw.map .modeRaw
  | .stateRaw => r.stateRaw.map .stateRaw
  | .modeTxt => r.modeTxt.map .modeTxt
  | .statusTxt => r.statusTxt.map .statusTxt
  | .sourceTxt => r.sourceTxt.map .sourceTxt

/-- The last publish on a channel in a list of events. -/
def lastOn (c : Channel) : List Event → Option Pub
  | [] => none
  | .warn _ :: es => lastOn c es
  | .pub p :: es =>
    match lastOn c es with
    | some q => some q
    | none => if p.channel = c then some p else none

/-- The register invariant of 10_state.md R27 for channels with a sink, where "passed the filter" and
"forwarded" are the same: each register holds the last value published, or its reset value. -/
def RegsTrack (s : State) : Prop :=
  ∀ c, sinkEnabled s.cfg.sinkEn c = true →
    regPub s.last c =
      match lastOn c s.evOut with
      | some p => some p
      | none => regPub s.cfg.initLast c

/-- A number of the signed two's-complement range of `w` bits (00_scope.md R10), at `w = 0` the range
log 15 chooses. -/
abbrev IntFits (w : Nat) (v : Int) : Prop := -((2 ^ (w - 1) : Nat) : Int) ≤ v ∧ v ≤ ((2 ^ (w - 1) : Nat) : Int) - 1

/-- Both integer registers of a register file are NONE or of `w` bits (10_state.md R21, R23). -/
def RegsFit (w : Nat) (r : LastRegs) : Prop :=
  (∀ v, r.level = some v → IntFits w v) ∧ (∀ v, r.stateRaw = some v → IntFits w v)

/-- The integer registers, and the values a reset would load into them, are of `INT_W` bits. -/
def IntegersFit (s : State) : Prop := RegsFit s.cfg.intW s.last ∧ RegsFit s.cfg.intW s.cfg.initLast

/-- A published LEVEL or STATE_RAW value is of `w` bits (30_encoding.md R102). -/
def EventFits (w : Nat) : Event → Prop
  | .pub (.level v) => IntFits w v
  | .pub (.stateRaw v) => IntFits w v
  | _ => True

/-- Every published LEVEL and STATE_RAW value is non-negative (30_encoding.md R102). -/
def eventNonneg : Event → Prop
  | .pub (.level v) => 0 ≤ v
  | .pub (.stateRaw v) => 0 ≤ v
  | _ => True

/-- The event a publish of `p` leaves on EV_OUT from registers `r` (41_record_decoder.md R140): one
where the value is new and the sink is there, else none. -/
def eventIfNew (e : SinkEn) (r : LastRegs) (p : Pub) : List Event :=
  if regPub r p.channel ≠ some p ∧ sinkEnabled e p.channel = true then [.pub p] else []

/-- How DEC_JSON may read a field where INT_W is `w` (42_json_decoder.md R191 to R194): `n` open values
are drawn. An absent field is -1, a number in range is itself, a number out of range is any value of
`w` bits. The range at a `w` of 0 is the model's choice (log 15, `IntFits`). -/
def FieldReads (w : Nat) (r k : Bytes) (v : IntW) (n : Nat) : Prop :=
  match fieldText r k with
  | none => v = -1 ∧ n = 0
  | some t => if IntFits w (decText t) then v = decText t ∧ n = 0 else IntFits w v ∧ n = 1

/-- What 41_record_decoder.md R160 to R167 make of a mode byte: from the first matching row, with the
flag updated first. -/
def ClassifiesAs (i : Instr) (m : Byte) (s : State) : Prop :=
  ∃ row flag mode status source,
    row = lookup s.cfg.modeTable m
    ∧ flag = (if (∃ r, row = some r ∧ r.isMarker = true) then true
              else if m = 0x01#8 ∨ m = 0x04#8 ∨ m = 0x08#8 then false else s.inRefresh)
    ∧ mode = (match row with
              | none => ModeTxt.unknown
              | some r => if flag = true ∧ m = 0x00#8 then ModeTxt.refresh else rowModeTxt r.mode)
    ∧ status = (match row with
              | none => StatusTxt.unknown
              | some r => rowStatusTxt r.status)
    ∧ source = (match row with
              | none => SourceTxt.unknown
              | some r => rowSourceTxt r.source)
    ∧ exec i s = .next
        { s with
          inRefresh := flag
          last := { s.last with modeRaw := some m, modeTxt := some mode, statusTxt := some status, sourceTxt := some source }
          evOut := s.evOut ++ ((if row = none then [Event.warn m] else [])
            ++ eventIfNew s.cfg.sinkEn s.last (.modeRaw m) ++ eventIfNew s.cfg.sinkEn s.last (.modeTxt mode)
            ++ eventIfNew s.cfg.sinkEn s.last (.statusTxt status) ++ eventIfNew s.cfg.sinkEn s.last (.sourceTxt source)) }

end Sys2Proof.Machine
end

