-- ==== Sys2Proof/Certificates/Slice0/Obligations.lean ====
section
/-! DEFINITION. The statements about RDX for the provers: one `def Obligations.<Name> : Prop` each. -/

open Sys2Proof Sys2Proof.Machine

/-! ## Reset and the step -/

/-- 70_reset_and_hazards.md R250: constructing the block, or asserting RST, puts every register at its
reset value and emits no event; `INIT_LAST` is NONE on every channel of this hardware. -/
def Obligations.ResetLoadsTheResetValues : Prop :=
  (∀ cfg : Config, (State.resetWith cfg).buf = [] ∧ (State.resetWith cfg).last = cfg.initLast
      ∧ (State.resetWith cfg).inRefresh = false ∧ (State.resetWith cfg).evOut = []
      ∧ (State.resetWith cfg).cfg = cfg)
  ∧ State.reset.last = ⟨none, none, none, none, none, none⟩
  ∧ ∀ (s : State) (rest : List Stimulus), s.input = .rst :: rest →
      ∃ t, step s = .next t ∧ t.buf = [] ∧ t.last = s.cfg.initLast ∧ t.inRefresh = false
        ∧ newEvents s t = [] ∧ t.cfg = s.cfg ∧ t.input = rest

/-- 40_reassembler.md R120 at reset, and 00_scope.md R8's BUF_CAP and INT_W of this hardware. The clause
that the sampled table meets 30_encoding.md R90 to R92 is about the model's choice of table (log 3). -/
def Obligations.ResetStateIsLegal : Prop :=
  BufInvariant State.reset.cfg.bufCap State.reset.buf ∧ Memory.wf State.reset.cfg.bufCap State.reset.buf = true
    ∧ State.reset.phase = .idle ∧ tableOk State.reset.cfg.modeTable = true
    ∧ State.reset.cfg.bufCap = 500 ∧ State.reset.cfg.intW = 32

/-- A step with a byte at the head of the input takes that byte off and is the operation the byte
decodes to, and nothing else (40_reassembler.md R123). -/
def Obligations.StepRunsTheDecodedByte : Prop :=
  ∀ (s : State) (b : Byte) (rest : List Stimulus), s.input = .byte b :: rest →
    decode s.cfg.hexLeadRequired .byteIn [b] = .ok (decodeByte b)
      ∧ step s = exec (decodeByte b) { s with input := rest }

/-- 30_encoding.md R71: every byte has exactly one class and so one operation. -/
def Obligations.ByteClassMap : Prop :=
  decodeByte 0x0D#8 = .feedCr ∧ decodeByte 0x0A#8 = .feedLf ∧ decodeByte 0x3C#8 = .feedLt
    ∧ ∀ b : Byte, b ≠ 0x0D#8 → b ≠ 0x0A#8 → b ≠ 0x3C#8 → decodeByte b = .feedOther b

/-- With nothing on the inputs a step keeps all state (60_exceptions.md R233, R236; log 1). -/
def Obligations.IdleStepKeepsTheState : Prop :=
  ∀ s : State, s.input = [] → step s = .next s

/-- 60_exceptions.md R220, R226 and 40_reassembler.md R123: no run from any state ever stops, and no
instruction ever does. -/
def Obligations.NoRunEverStops : Prop :=
  (∀ s : State, Safe s) ∧ ∀ (i : Instr) (s : State), ∃ t, exec i s = .next t

/-! ## Reassembler -/

/-- 40_reassembler.md R110: CR does nothing on an empty buffer; else the decoded record runs, with the
buffer still holding it, and the buffer is cleared. -/
def Obligations.FeedCrFlushesOneRecord : Prop :=
  decodeByte 0x0D#8 = .feedCr ∧ ∀ s : State,
    (s.buf = [] → exec .feedCr s = .next s)
    ∧ (s.buf ≠ [] → ∃ t, exec (decodeFlushed s.cfg.hexLeadRequired s.buf) s = .next t
        ∧ exec .feedCr s = .next { t with buf := [] })

/-- 40_reassembler.md R111: LF is treated like CR. -/
def Obligations.FeedLfFlushesOneRecord : Prop :=
  decodeByte 0x0A#8 = .feedLf ∧ ∀ s : State,
    (s.buf = [] → exec .feedLf s = .next s)
    ∧ (s.buf ≠ [] → ∃ t, exec (decodeFlushed s.cfg.hexLeadRequired s.buf) s = .next t
        ∧ exec .feedLf s = .next { t with buf := [] })

/-- 40_reassembler.md R112: `<` flushes pending content and the buffer is then exactly `<`. -/
def Obligations.FeedLtFlushesAndStartsAFrame : Prop :=
  decodeByte 0x3C#8 = .feedLt ∧ ∀ s : State,
    (s.buf = [] → exec .feedLt s = .next { s with buf := [0x3C#8] })
    ∧ (s.buf ≠ [] → ∃ t, exec (decodeFlushed s.cfg.hexLeadRequired s.buf) s = .next t
        ∧ exec .feedLt s = .next { t with buf := [0x3C#8] })

/-- 40_reassembler.md R113 to R117: the byte is appended; a bounded JSON record runs and the buffer is
cleared; else a buffer past BUF_CAP is cleared with no event; else nothing more happens. -/
def Obligations.FeedOtherAppendsThenChecks : Prop :=
  ∀ (s : State) (b : Byte),
    match jsonBounds (s.buf ++ [b]) with
    | some (i, j) => ∃ t, exec (.decJson (slice (s.buf ++ [b]) i (j + 2))) { s with buf := s.buf ++ [b] } = .next t
        ∧ exec (.feedOther b) s = .next { t with buf := [] }
    | none => exec (.feedOther b) s
        = .next (if s.cfg.bufCap < s.buf.length + 1 then { s with buf := [] } else { s with buf := s.buf ++ [b] })

/-- 40_reassembler.md R114: JsonCheck bounds the first `JSON_OPEN` and the first `JSON_CLOSE` that
begins at or after its end. -/
def Obligations.JsonCheckBoundsTheFirstMarkers : Prop :=
  ∀ (m : Bytes) (i j : Nat), jsonBounds m = some (i, j) ↔
    (slice m i (i + 13) = jsonOpen ∧ (∀ n, n < i → slice m n (n + 13) ≠ jsonOpen)
      ∧ i + 13 ≤ j ∧ slice m j (j + 2) = jsonClose ∧ ∀ n, i + 13 ≤ n → n < j → slice m n (n + 2) ≠ jsonClose)

/-- 40_reassembler.md R118: in a buffer that held no complete JSON record before the last byte, the
`}}` found ends at the last byte. -/
def Obligations.CompletedJsonRecordEndsTheBuffer : Prop :=
  ∀ (m : Bytes) (b : Byte) (i j : Nat), jsonBounds m = none → jsonBounds (m ++ [b]) = some (i, j) →
    j + 2 = (m ++ [b]).length

/-- 40_reassembler.md R120, 10_state.md R20 and R30: the buffer invariants hold again after every step
from a state in which they hold, and the phase is the function of the buffer that R30 defines. BUF_CAP
is 500 on this hardware; a buffer that must hold the one byte `<` asks for at least 1 (log 15). -/
def Obligations.StepKeepsTheBufferInvariants : Prop :=
  ∀ s t : State, 1 ≤ s.cfg.bufCap → BufInvariant s.cfg.bufCap s.buf → step s = .next t →
    BufInvariant t.cfg.bufCap t.buf
    ∧ (t.phase = .idle ↔ t.buf = []) ∧ (t.phase = .accHex ↔ t.buf.head? = some 0x3C#8)
    ∧ (t.phase = .accOther ↔ t.buf ≠ [] ∧ t.buf.head? ≠ some 0x3C#8)

/-- 10_state.md R31, row by row; `b` is of class OTHER. From IDLE one byte completes no JSON record, and
overflows no buffer that holds a byte. -/
def Obligations.PhaseTransitionTable : Prop :=
  ∀ (s t : State),
    ((exec .feedCr s = .next t ∨ exec .feedLf s = .next t) → t.phase = .idle)
    ∧ (exec .feedLt s = .next t → t.phase = .accHex ∧ t.buf = [0x3C#8])
    ∧ ∀ b : Byte, classOf b = .other → exec (.feedOther b) s = .next t →
        (s.phase = .idle → 1 ≤ s.cfg.bufCap → t.phase = .accOther)
        ∧ (s.phase = .accHex →
            t.phase = if jsonBounds (s.buf ++ [b]) ≠ none ∨ s.cfg.bufCap < s.buf.length + 1 then .idle else .accHex)
        ∧ (s.phase = .accOther →
            t.phase = if jsonBounds (s.buf ++ [b]) ≠ none ∨ s.cfg.bufCap < s.buf.length + 1 then .idle else .accOther)

/-- 40_reassembler.md R121: a byte sequence cut into chunks in any way, each chunk drained before the next
is delivered, ends in the same state with the same events as one byte at a time, and as one chunk. -/
def Obligations.IncrementalFeedEquivalence : Prop :=
  ∀ (s : State) (xs : Bytes) (chunks : List Bytes), s.input = [] → chunks.flatten = xs →
    ∃ t, feedChunks chunks s = .next t ∧ feedChunks (xs.map fun b => [b]) s = .next t
      ∧ drain (deliver xs s) = .next t

/-! ## Publish filter and the hex dispatcher -/

/-- 41_record_decoder.md R144. -/
def Obligations.HexDigitValues : Prop :=
  ∀ c : Byte,
    (0x30 ≤ c.toNat ∧ c.toNat ≤ 0x39 → hv c = some (c.toNat - 0x30))
    ∧ (0x41 ≤ c.toNat ∧ c.toNat ≤ 0x46 → hv c = some (c.toNat - 0x37))
    ∧ (0x61 ≤ c.toNat ∧ c.toNat ≤ 0x66 → hv c = some (c.toNat - 0x57))
    ∧ (¬ (0x30 ≤ c.toNat ∧ c.toNat ≤ 0x39) → ¬ (0x41 ≤ c.toNat ∧ c.toNat ≤ 0x46)
        → ¬ (0x61 ≤ c.toNat ∧ c.toNat ≤ 0x66) → hv c = none)

/-- 41_record_decoder.md R147 for a payload of two hex digits: LEVEL is published through the filter of
R140 with the zero-extended byte, which is its unsigned value where INT_W holds it (32 on this hardware),
and nothing else changes: no byte of the buffer, no flag, no other register. The value at an INT_W below
9, the low INT_W bits read as signed, is the model's DESIGN CHOICE (log 15). -/
def Obligations.LevelFramePublishesItsPayload : Prop :=
  ∀ (s : State) (c1 c2 : Byte) (tail : Bytes) (h l : Nat), hv c1 = some h → hv c2 = some l →
    ∃ v : IntW, v = ((BitVec.ofNat 8 (16 * h + l)).setWidth s.cfg.intW).toInt
      ∧ (9 ≤ s.cfg.intW → v = 16 * h + l) ∧ 16 * h + l ≤ 255
      ∧ exec (.decLevel2053 c1 c2 tail) s = .next
        (if s.last.level = some v then s
         else { s with
           last := { s.last with level := some v }
           evOut := s.evOut ++ if s.cfg.sinkEn.level then [Event.pub (.level v)] else [] })

/-- 41_record_decoder.md R145 for a malformed pair of a level frame, under every relation: some answer
that HEX2_MALFORMED admits for the pair decides, IGNORE (`none`) dropping the frame; a single answer,
IGNORE in the reference relation, is that one and takes no draw. Where the answer is a byte, the value
published at an INT_W below 9, the byte's low INT_W bits read as signed, is the model's DESIGN CHOICE
(log 15). -/
def Obligations.MalformedLevelPayload : Prop :=
  ∀ (s : State) (c1 c2 : Byte) (tail : Bytes), (hv c1 = none ∨ hv c2 = none) →
    ∃ (r : Option Byte) (d : Nat), hex2Allows (hex2Answers s.cfg.hex2Relation c1 c2) r = true
      ∧ (∀ q, hex2Answers s.cfg.hex2Relation c1 c2 = .these q [] → r = q ∧ d = s.draws)
      ∧ exec (.decLevel2053 c1 c2 tail) s = .next
        (match r with
         | none => { s with draws := d }
         | some v => { s with
             last := { s.last with level := some (v.setWidth s.cfg.intW).toInt }
             evOut := s.evOut ++ eventIfNew s.cfg.sinkEn s.last (.level (v.setWidth s.cfg.intW).toInt)
             draws := d })

/-- The change filter is idempotent (41_record_decoder.md R140, R147): a second identical level frame
changes nothing and emits nothing. -/
def Obligations.RepeatedLevelFrameIsSilent : Prop :=
  ∀ (s t : State) (c1 c2 : Byte) (tail tail' : Bytes), hv c1 ≠ none → hv c2 ≠ none →
    exec (.decLevel2053 c1 c2 tail) s = .next t → exec (.decLevel2053 c1 c2 tail') t = .next t

/-- 41_record_decoder.md R150 to R157: a record whose stripped form begins with an ignore prefix is its
row's operation, and that has no effect. -/
def Obligations.IgnoredHeartbeatsHaveNoEffect : Prop :=
  ∀ (lead : Bool) (s : State) (x : Bytes),
    (decodeFlushed lead (0x3C#8 :: (pre20123 ++ x)) = .decIgn20123 x ∧ exec (.decIgn20123 x) s = .next s)
    ∧ (decodeFlushed lead (0x3C#8 :: (pre2071 ++ x)) = .decIgn2071 x ∧ exec (.decIgn2071 x) s = .next s)
    ∧ (decodeFlushed lead (0x3C#8 :: (pre2010 ++ x)) = .decIgn2010 x ∧ exec (.decIgn2010 x) s = .next s)
    ∧ (decodeFlushed lead (0x3C#8 :: (pre30123 ++ x)) = .decIgn30123 x ∧ exec (.decIgn30123 x) s = .next s)
    ∧ (decodeFlushed lead (0x3C#8 :: (pre40123 ++ x)) = .decIgn40123 x ∧ exec (.decIgn40123 x) s = .next s)
    ∧ (decodeFlushed lead (0x3C#8 :: (pre4071 ++ x)) = .decIgn4071 x ∧ exec (.decIgn4071 x) s = .next s)
    ∧ (decodeFlushed lead (0x3C#8 :: (pre4010 ++ x)) = .decIgn4010 x ∧ exec (.decIgn4010 x) s = .next s)
    ∧ (decodeFlushed lead (0x3C#8 :: (pre4033 ++ x)) = .decIgn4033 x ∧ exec (.decIgn4033 x) s = .next s)

/-- The same on the wire (30_encoding.md R82, R84): a boundary after `<`, an ignore prefix and any bytes
at all leaves everything as it was but for the buffer. -/
def Obligations.FlushedHeartbeatOnlyClearsTheBuffer : Prop :=
  ∀ (s : State) (p tail : Bytes),
    p ∈ [pre20123, pre2071, pre2010, pre30123, pre40123, pre4071, pre4010, pre4033] →
    s.buf = 0x3C#8 :: (p ++ tail) →
    exec .feedCr s = .next { s with buf := [] } ∧ exec .feedLf s = .next { s with buf := [] }
      ∧ exec .feedLt s = .next { s with buf := [0x3C#8] }

/-- 41_record_decoder.md R158: a record with no matching pattern, a frame shorter than 10, and, where
HEX_LEAD_REQUIRED holds, a record without its `<`, is DEC_OTHER, and that does nothing. -/
def Obligations.OtherRecordsHaveNoEffect : Prop :=
  (∀ (lead : Bool) (x : Bytes),
      (∀ p ∈ [pre20123, pre2071, pre2010, pre30123, pre40123, pre4071, pre4010, pre4033], startsWith x p = false) →
      ((startsWith x pre2053 = true ∨ startsWith x pre1053 = true) → x.length < 10) →
      decodeFlushed lead (0x3C#8 :: x) = .decOther (0x3C#8 :: x))
  ∧ (∀ (c : Byte) (x : Bytes), c ≠ 0x3C#8 → decodeFlushed true (c :: x) = .decOther (c :: x))
  ∧ ∀ (s : State) (r : Bytes), exec (.decOther r) s = .next s

/-- 41_record_decoder.md R141 where HEX_LEAD_REQUIRED holds, 70_reset_and_hazards.md R267: a record
without its `<` is dropped, whatever its characters. -/
def Obligations.RecordWithoutLeadIsDropped : Prop :=
  ∀ (s : State) (c : Byte) (r : Bytes), s.cfg.hexLeadRequired = true → s.buf = c :: r → c ≠ 0x3C#8 →
    exec .feedCr s = .next { s with buf := [] } ∧ exec .feedLf s = .next { s with buf := [] }
      ∧ exec .feedLt s = .next { s with buf := [0x3C#8] }

/-- 41_record_decoder.md R141 where HEX_LEAD_REQUIRED is false: such a record is dispatched unstripped,
so it does to the registers what the same record with its `<` does. -/
def Obligations.RecordWithoutLeadRunsWhenAllowed : Prop :=
  ∀ (s : State) (c : Byte) (r : Bytes), s.cfg.hexLeadRequired = false → c ≠ 0x3C#8 →
    exec .feedCr { s with buf := c :: r } = exec .feedCr { s with buf := 0x3C#8 :: c :: r }

/-- 41_record_decoder.md R146: a 2053 or 1053 record whose stripped length is below 10 is dropped. -/
def Obligations.ShortFrameIsDropped : Prop :=
  ∀ (s : State) (p r : Bytes), p = pre2053 ∨ p = pre1053 → (p ++ r).length < 10 →
    s.buf = 0x3C#8 :: (p ++ r) →
    decodeFlushed s.cfg.hexLeadRequired s.buf = .decOther s.buf
      ∧ exec .feedCr s = .next { s with buf := [] }

/-- 30_encoding.md R75: no byte after the payload pair affects anything. -/
def Obligations.ChecksumIsNeverRead : Prop :=
  ∀ (s : State) (p : Bytes) (c1 c2 : Byte) (x y : Bytes), p = pre2053 ∨ p = pre1053 →
    4 ≤ x.length → 4 ≤ y.length →
    exec .feedCr { s with buf := 0x3C#8 :: (p ++ c1 :: c2 :: x) }
      = exec .feedCr { s with buf := 0x3C#8 :: (p ++ c1 :: c2 :: y) }

/-- 30_encoding.md R82: no two patterns of the hex dispatcher match one record, so the priority order
decides nothing. -/
def Obligations.HexPatternsExcludeEachOther : Prop :=
  ∀ (s p q : Bytes),
    p ∈ [pre2053, pre20123, pre2071, pre2010, pre30123, pre40123, pre4071, pre4010, pre4033, pre1053] →
    q ∈ [pre2053, pre20123, pre2071, pre2010, pre30123, pre40123, pre4071, pre4010, pre4033, pre1053] →
    startsWith s p = true → startsWith s q = true → p = q

/-! ## Mode classifier -/

/-- 41_record_decoder.md R161: the row found is the first with the code, and none is found only where no
row has it. -/
def Obligations.LookupFindsTheFirstRow : Prop :=
  ∀ (t : List ModeRow) (m : Byte),
    (∀ r, lookup t m = some r ↔ ∃ k, t[k]? = some r ∧ r.code = m ∧ ∀ (n : Nat) (q : ModeRow), n < k → t[n]? = some q → q.code ≠ m)
    ∧ (lookup t m = none ↔ ∀ r ∈ t, r.code ≠ m)

/-- 41_record_decoder.md R160 to R165 and R167: every mode-code operation answers the next state these
rules give, with the whole frame: the four mode registers, IN_REFRESH and the events, in their order;
LEVEL, STATE_RAW, every byte of the buffer, the configuration and the inputs stay. -/
def Obligations.ModeCodesClassify : Prop :=
  ∀ s : State, ClassifiesAs .mode00 0x00#8 s ∧ ClassifiesAs .mode01 0x01#8 s ∧ ClassifiesAs .mode04 0x04#8 s
    ∧ ClassifiesAs .mode08 0x08#8 s ∧ ClassifiesAs .mode10 0x10#8 s ∧ ClassifiesAs .mode14 0x14#8 s
    ∧ ∀ m : Byte, ClassifiesAs (.modeOther m) m s

/-- 41_record_decoder.md R160: a mode frame with two hex digits runs the operation its mode byte
selects, and so has that operation's next state and frame. -/
def Obligations.ModeFrameRunsItsModeCode : Prop :=
  ∀ (s : State) (c1 c2 : Byte) (tail : Bytes) (h l : Nat), hv c1 = some h → hv c2 = some l →
    ∃ t, exec (.decMode1053 c1 c2 tail) s = .next t
      ∧ exec (decodeMode (BitVec.ofNat 8 (16 * h + l))) s = .next t
      ∧ ClassifiesAs (.decMode1053 c1 c2 tail) (BitVec.ofNat 8 (16 * h + l)) s
      ∧ (BitVec.ofNat 8 (16 * h + l)).toNat = 16 * h + l

/-- 41_record_decoder.md R145, 60_exceptions.md R228 for a malformed pair of a mode frame, under every
relation: some answer that HEX2_MALFORMED admits for the pair decides; IGNORE (`none`) drops the frame
with no warning, a byte runs its mode code; a single answer is that one and takes no draw. -/
def Obligations.MalformedModePayload : Prop :=
  ∀ (s : State) (c1 c2 : Byte) (tail : Bytes), (hv c1 = none ∨ hv c2 = none) →
    ∃ (r : Option Byte) (d : Nat), hex2Allows (hex2Answers s.cfg.hex2Relation c1 c2) r = true
      ∧ (∀ q, hex2Answers s.cfg.hex2Relation c1 c2 = .these q [] → r = q ∧ d = s.draws)
      ∧ exec (.decMode1053 c1 c2 tail) s =
        (match r with
         | none => .next { s with draws := d }
         | some m => exec (decodeMode m) { s with draws := d })

/-- 41_record_decoder.md R166 under a table that meets 30_encoding.md R90 to R92: IN_REFRESH and the mode
text after each mode byte. -/
def Obligations.RefreshCycleTable : Prop :=
  ∀ (s t : State) (m : Byte), tableOk s.cfg.modeTable = true → exec (decodeMode m) s = .next t →
    (∀ r, lookup s.cfg.modeTable m = some r → r.isMarker = true →
        t.inRefresh = true ∧ t.last.modeTxt = some (rowModeTxt r.mode))
    ∧ (∀ r, lookup s.cfg.modeTable m = some r → m = 0x01#8 ∨ m = 0x04#8 ∨ m = 0x08#8 →
        t.inRefresh = false ∧ t.last.modeTxt = some (rowModeTxt r.mode))
    ∧ (m = 0x00#8 → t.inRefresh = s.inRefresh
        ∧ t.last.modeTxt = some (if s.inRefresh then .refresh else .normal))
    ∧ (∀ r, lookup s.cfg.modeTable m = some r → r.isMarker = false → m ≠ 0x00#8 → m ≠ 0x01#8 → m ≠ 0x04#8 →
        m ≠ 0x08#8 → t.inRefresh = s.inRefresh ∧ t.last.modeTxt = some (rowModeTxt r.mode))
    ∧ (lookup s.cfg.modeTable m = none → t.inRefresh = s.inRefresh ∧ t.last.modeTxt = some .unknown)

/-- 30_encoding.md R90 to R92 at work, for every table that meets them: the marker 0x10 and the
unmapped 0x14, whose warning comes first and whose flag stays. -/
def Obligations.PinnedCodesClassify : Prop :=
  ∀ s : State, tableOk s.cfg.modeTable = true →
    (∃ t, exec .mode10 s = .next t ∧ t.inRefresh = true ∧ t.last.modeRaw = some 0x10#8
      ∧ t.last.modeTxt = some .refresh ∧ t.last.statusTxt = some .draining ∧ t.last.sourceTxt = some .rainwater
      ∧ .warn 0x10#8 ∉ newEvents s t)
    ∧ (∃ t, exec .mode14 s = .next t ∧ t.inRefresh = s.inRefresh ∧ t.last.modeRaw = some 0x14#8
      ∧ t.last.modeTxt = some .unknown ∧ t.last.statusTxt = some .unknown ∧ t.last.sourceTxt = some .unknown
      ∧ (newEvents s t).head? = some (.warn 0x14#8))
    ∧ (∃ t, exec .mode01 s = .next t ∧ t.inRefresh = false ∧ t.last.modeTxt = some .normal
      ∧ t.last.statusTxt = some .idle)
    ∧ (∃ t, exec .mode04 s = .next t ∧ t.inRefresh = false ∧ t.last.statusTxt = some .idle)
    ∧ (∃ t, exec .mode08 s = .next t ∧ t.inRefresh = false ∧ t.last.statusTxt = some .idle)

/-- 41_record_decoder.md R140, R165: a second identical mode frame changes no register and emits only
the warning, which an unmapped byte repeats. -/
def Obligations.RepeatedModeByteOnlyWarns : Prop :=
  ∀ (s t : State) (m : Byte), exec (decodeMode m) s = .next t →
    exec (decodeMode m) t = .next
      { t with evOut := t.evOut ++ if lookup s.cfg.modeTable m = none then [Event.warn m] else [] }

/-- 10_state.md R28, 41_record_decoder.md R162, 70_reset_and_hazards.md R265: whatever the operation,
IN_REFRESH rises only with a marker row's byte and falls only with an idle code, and that byte is then
LAST_MODE_RAW. -/
def Obligations.FlagMovesOnlyWithAModeByte : Prop :=
  ∀ (i : Instr) (s t : State), exec i s = .next t →
    (s.inRefresh = false → t.inRefresh = true →
      ∃ m r, t.last.modeRaw = some m ∧ lookup s.cfg.modeTable m = some r ∧ r.isMarker = true)
    ∧ (s.inRefresh = true → t.inRefresh = false →
      t.last.modeRaw = some 0x01#8 ∨ t.last.modeRaw = some 0x04#8 ∨ t.last.modeRaw = some 0x08#8)

/-- 70_reset_and_hazards.md R252: with nothing published yet and every sink there, the first mode byte
publishes all four mode channels, and a JSON record publishes each field it accepts. Which numbers are in
range at an INT_W of 0 (`FieldReads`) is the model's DESIGN CHOICE (log 15). -/
def Obligations.FirstValuesAreAlwaysPublished : Prop :=
  ∀ s : State, s.last = ⟨none, none, none, none, none, none⟩ → s.cfg.sinkEn = ⟨true, true, true, true, true, true⟩ →
    (∀ m, ∃ t mode status source, exec (decodeMode m) s = .next t
      ∧ newEvents s t = (if lookup s.cfg.modeTable m = none then [Event.warn m] else [])
          ++ [.pub (.modeRaw m), .pub (.modeTxt mode), .pub (.statusTxt status), .pub (.sourceTxt source)])
    ∧ (∀ r top st, FieldReads s.cfg.intW r keyTop top 0 → FieldReads s.cfg.intW r keyState st 0 →
        accept s.cfg.jsonAccept top = true → accept s.cfg.jsonAccept st = true →
        ∃ t, exec (.decJson r) s = .next t ∧ newEvents s t = [.pub (.level top), .pub (.stateRaw st)])

/-! ## JSON decoder -/

/-- 42_json_decoder.md R191: a field's text is what stands between the first occurrence of its pattern
and the next quote after that pattern. -/
def Obligations.FieldTextIsTheFirstQuotedValue : Prop :=
  ∀ (r k v : Bytes), fieldText r k = some v ↔
    ∃ pre post, r = pre ++ (0x22#8 :: (k ++ [0x22#8, 0x3A#8, 0x22#8])) ++ v ++ 0x22#8 :: post
      ∧ 0x22#8 ∉ v
      ∧ ∀ n, n < pre.length → slice r n (n + k.length + 4) ≠ 0x22#8 :: (k ++ [0x22#8, 0x3A#8, 0x22#8])

/-- 42_json_decoder.md R192: white space, one optional sign, the digits up to the first non-digit; no
digits give 0. -/
def Obligations.DecimalPrefixParse : Prop :=
  ∀ (ws sign digits rest : Bytes),
    (∀ c ∈ ws, c = 0x20#8 ∨ c = 0x09#8 ∨ c = 0x0B#8 ∨ c = 0x0C#8) →
    (sign = [] ∨ sign = [0x2B#8] ∨ sign = [0x2D#8]) →
    (∀ c ∈ digits, 0x30 ≤ c.toNat ∧ c.toNat ≤ 0x39) →
    (∀ c, rest.head? = some c → ¬ (0x30 ≤ c.toNat ∧ c.toNat ≤ 0x39)
      ∧ (sign = [] → digits = [] → c ≠ 0x20#8 ∧ c ≠ 0x09#8 ∧ c ≠ 0x0B#8 ∧ c ≠ 0x0C#8 ∧ c ≠ 0x2B#8 ∧ c ≠ 0x2D#8)) →
    decText (ws ++ sign ++ digits ++ rest)
      = (if sign = [0x2D#8] then -1 else 1) * (digits.foldl (fun n c => 10 * n + (c.toNat - 0x30)) 0 : Nat)

/-- 42_json_decoder.md R194, and the sentinel of an absent field, which neither setting accepts. -/
def Obligations.AcceptRule : Prop :=
  (∀ v : IntW, accept .nonneg v = true ↔ 0 ≤ v) ∧ (∀ v : IntW, accept .notMinus1 v = true ↔ v ≠ -1)
    ∧ (∀ a : JsonAccept, accept a (-1) = false)
    ∧ ∀ (s : State) (r k : Bytes), fieldText r k = none →
        (fieldValue r k s).1 = -1 ∧ (fieldValue r k s).2 = s

/-- 42_json_decoder.md R195 to R199: DEC_JSON reads its two fields and publishes each accepted one, LEVEL
first; an out-of-range number is any value (R193); no other register, no flag and no byte of the buffer
changes. The range of -1 to 0 at an INT_W of 0 (`FieldReads`) is the model's DESIGN CHOICE (log 15). -/
def Obligations.JsonRecordPublishesItsFields : Prop :=
  ∀ (s : State) (r : Bytes), ∃ (top st : IntW) (n1 n2 d : Nat),
    FieldReads s.cfg.intW r keyTop top n1 ∧ FieldReads s.cfg.intW r keyState st n2
    ∧ exec (.decJson r) s = .next
      { s with
        last := { s.last with
          level := if accept s.cfg.jsonAccept top = true then some top else s.last.level
          stateRaw := if accept s.cfg.jsonAccept st = true then some st else s.last.stateRaw }
        draws := d
        evOut := s.evOut
          ++ ((if accept s.cfg.jsonAccept top = true then eventIfNew s.cfg.sinkEn s.last (.level top) else [])
            ++ (if accept s.cfg.jsonAccept st = true then eventIfNew s.cfg.sinkEn s.last (.stateRaw st) else [])) }

/-- 42_json_decoder.md R196, 41_record_decoder.md R140: a JSON `top` equal to the level already held, from
whichever path, publishes nothing on LEVEL. INT_W holds a payload byte (32 on this hardware). -/
def Obligations.LevelIsSharedBetweenPaths : Prop :=
  ∀ (s t u : State) (r txt tail : Bytes) (c1 c2 : Byte) (h l : Nat), 9 ≤ s.cfg.intW → hv c1 = some h → hv c2 = some l →
    fieldText r keyTop = some txt → decText txt = 16 * h + l →
    exec (.decLevel2053 c1 c2 tail) s = .next t → exec (.decJson r) t = .next u →
    ∀ v, Event.pub (.level v) ∉ newEvents t u

/-- 30_encoding.md R102 with 42_json_decoder.md R194: every LEVEL or STATE_RAW a step publishes is of
INT_W bits, and under NONNEG none is negative, drawn values included, where INT_W holds a payload byte
(32 on this hardware). What fits an INT_W of 0 is the model's DESIGN CHOICE (log 15). -/
def Obligations.PublishedIntegersAreNonnegative : Prop :=
  ∀ s t : State, step s = .next t → ∀ e ∈ newEvents s t,
    EventFits s.cfg.intW e ∧ (9 ≤ s.cfg.intW → s.cfg.jsonAccept = .nonneg → eventNonneg e)

/-! ## The whole machine -/

/-- 10_state.md R41, R39: a step only adds events, at most five; a level frame at most one, a JSON record
at most two, a mode frame at most five. -/
def Obligations.EventsPerStepAreBounded : Prop :=
  (∀ s t : State, step s = .next t → t.evOut = s.evOut ++ newEvents s t ∧ (newEvents s t).length ≤ 5)
  ∧ (∀ (s t : State) (c1 c2 : Byte) (x : Bytes), exec (.decLevel2053 c1 c2 x) s = .next t → (newEvents s t).length ≤ 1)
  ∧ (∀ (s t : State) (r : Bytes), exec (.decJson r) s = .next t → (newEvents s t).length ≤ 2)
  ∧ (∀ (s t : State) (c1 c2 : Byte) (x : Bytes), exec (.decMode1053 c1 c2 x) s = .next t → (newEvents s t).length ≤ 5)

/-- 10_state.md R29 for the decoder operations: none touches a byte of the buffer, the configuration or
the inputs; only mode frames write the flag and the mode registers; only level frames and JSON records
write LAST_LEVEL; only JSON records write LAST_STATE_RAW. -/
def Obligations.DecoderOperationsWriteOnlyTheirRegisters : Prop :=
  ∀ (i : Instr) (s t : State), sourceOf i ≠ .byteIn → exec i s = .next t →
    (∀ k, Memory.read t.buf k = Memory.read s.buf k) ∧ t.cfg = s.cfg ∧ t.input = s.input
    ∧ ((∀ c1 c2 x, i ≠ .decMode1053 c1 c2 x) → sourceOf i ≠ .modeByte →
        t.inRefresh = s.inRefresh ∧ t.last.modeRaw = s.last.modeRaw ∧ t.last.modeTxt = s.last.modeTxt
          ∧ t.last.statusTxt = s.last.statusTxt ∧ t.last.sourceTxt = s.last.sourceTxt)
    ∧ ((∀ c1 c2 x, i ≠ .decLevel2053 c1 c2 x) → sourceOf i ≠ .inline → t.last.level = s.last.level)
    ∧ (sourceOf i ≠ .inline → t.last.stateRaw = s.last.stateRaw)

/-- 10_state.md R33: no step changes the configuration. -/
def Obligations.ConfigurationIsConstant : Prop :=
  ∀ s t : State, step s = .next t → t.cfg = s.cfg

/-- 10_state.md R27: on every channel with a sink, the register holds the last value published, or its
reset value if none was, again after every step that takes a byte or nothing. -/
def Obligations.StepKeepsTheRegisterInvariant : Prop :=
  ∀ s t : State, s.input.head? ≠ some .rst → RegsTrack s → step s = .next t → RegsTrack t

/-- The register invariant holds at reset, under every configuration (10_state.md R27, R250). -/
def Obligations.ResetHasTheRegisterInvariant : Prop :=
  RegsTrack State.reset ∧ ∀ cfg : Config, RegsTrack (State.resetWith cfg)

/-- 10_state.md R21 and R23: LAST_LEVEL and LAST_STATE_RAW hold NONE or a number of INT_W bits, again after
every step, a reset included, for every INT_W. That -1 and 0 are the numbers of an INT_W of 0 is the
model's choice (log 15). -/
def Obligations.StepKeepsTheIntegerWidth : Prop :=
  ∀ s t : State, IntegersFit s → step s = .next t → IntegersFit t

/-- The integer registers are of INT_W bits at reset, under every configuration whose INIT_LAST is. -/
def Obligations.ResetHasTheIntegerWidth : Prop :=
  IntegersFit State.reset ∧ ∀ cfg : Config, RegsFit cfg.intW cfg.initLast → IntegersFit (State.resetWith cfg)

/-- 60_exceptions.md R230, R221: an operation raises X4 exactly when it emits a warning. -/
def Obligations.WarningExactlyWhenUnmapped : Prop :=
  ∀ (i : Instr) (s t : State), exec i s = .next t →
    (Condition.unmappedMode ∈ raised i s ↔ ∃ m, Event.warn m ∈ newEvents s t)

/-- 60_exceptions.md R228: a completed JSON record excludes OVERFLOW; of X2, X3, X4, X6 and X8 one
operation raises at most one. -/
def Obligations.ConditionsExcludeEachOther : Prop :=
  (∀ (s : State) (b : Byte), Condition.overflow ∈ raised (.feedOther b) s → jsonBounds (s.buf ++ [b]) = none)
  ∧ ∀ (i : Instr) (s : State) (x y : Condition),
      x ∈ [Condition.unrecognised, .ignoredHeartbeat, .unmappedMode, .shortFrame, .noLead] →
      y ∈ [Condition.unrecognised, .ignoredHeartbeat, .unmappedMode, .shortFrame, .noLead] →
      x ∈ raised i s → y ∈ raised i s → x = y

/-- 40_reassembler.md R121's ground, 20_memory.md R57: what an operation does depends neither on the bytes
still to come nor on the events already gone. -/
def Obligations.OperationsIgnoreThePorts : Prop :=
  ∀ (i : Instr) (s t : State) (inp : List Stimulus) (evs : List Event), exec i s = .next t →
    exec i { s with input := inp, evOut := evs } = .next { t with input := inp, evOut := evs ++ newEvents s t }

/-! ## Encoding -/

/-- 30_encoding.md R103: the spelling a text sink is handed and the code of every text value, in the
order of its table. -/
def Obligations.TextValueCodes : Prop :=
  [ModeTxt.normal, .holiday, .refresh, .unknown].map (fun v => (modeTxtSpelling v, modeTxtCode v))
      = [("Normal", 0), ("Holiday", 1), ("Refresh", 2), ("Unknown", 3)]
    ∧ [StatusTxt.idle, .filling, .draining, .unknown].map (fun v => (statusTxtSpelling v, statusTxtCode v))
      = [("Idle", 0), ("Filling", 1), ("Draining", 2), ("Unknown", 3)]
    ∧ [SourceTxt.rainwater, .mains, .unknown].map (fun v => (sourceTxtSpelling v, sourceTxtCode v))
      = [("Rainwater", 0), ("Mains", 1), ("Unknown", 2)]

/-- Decode and encode agree on every well-formed instruction of all 23 rows, at every operand, under every
configuration. -/
def Obligations.DecodeEncodeRoundTrip : Prop :=
  ∀ (cfg : Config) (i : Instr), WellFormed cfg i = true →
    decode cfg.hexLeadRequired (sourceOf i) (encode i) = .ok i

/-- The other direction: on this hardware (HEX_LEAD_REQUIRED) every word that decodes is the encoding of
what it decodes to, so no bit is dropped. -/
def Obligations.EncodeDecodeRoundTrip : Prop :=
  ∀ (src : Source) (w : Bytes) (i : Instr), decode true src w = .ok i → encode i = w ∧ sourceOf i = src

/-- Words written out from 30_encoding.md R71, R74, R82 and opcode_table.json. -/
def Obligations.WrittenWordsDecode : Prop :=
  decode true .byteIn [0x0D#8] = .ok .feedCr
    ∧ decode true .byteIn [0x7B#8] = .ok (.feedOther 0x7B#8)
    ∧ decode true .flushed [0x3C#8, 0x32#8, 0x30#8, 0x35#8, 0x33#8, 0x33#8, 0x32#8, 0x30#8, 0x30#8, 0x30#8, 0x30#8]
        = .ok (.decLevel2053 0x33#8 0x32#8 [0x30#8, 0x30#8, 0x30#8, 0x30#8])
    ∧ decode true .flushed [0x3C#8, 0x34#8, 0x30#8, 0x37#8, 0x31#8] = .ok (.decIgn4071 [])
    ∧ decode true .modeByte [0x10#8] = .ok .mode10
end

