-- ==== Sys2Proof/Laws/State.lean ====
section
/-! SUPPORT. One lemma per field of State per update (Machine/Ops.lean), and per register per store. -/

namespace Sys2Proof.Machine

@[simp] theorem bufAppend_buf (b : Byte) (s : State) : (bufAppend b s).buf = s.buf ++ [b] := rfl
@[simp] theorem bufAppend_last (b : Byte) (s : State) : (bufAppend b s).last = s.last := rfl
@[simp] theorem bufAppend_inRefresh (b : Byte) (s : State) : (bufAppend b s).inRefresh = s.inRefresh := rfl
@[simp] theorem bufAppend_cfg (b : Byte) (s : State) : (bufAppend b s).cfg = s.cfg := rfl
@[simp] theorem bufAppend_input (b : Byte) (s : State) : (bufAppend b s).input = s.input := rfl
@[simp] theorem bufAppend_evOut (b : Byte) (s : State) : (bufAppend b s).evOut = s.evOut := rfl
@[simp] theorem bufAppend_draws (b : Byte) (s : State) : (bufAppend b s).draws = s.draws := rfl

@[simp] theorem bufClear_buf (s : State) : (bufClear s).buf = [] := rfl
@[simp] theorem bufClear_last (s : State) : (bufClear s).last = s.last := rfl
@[simp] theorem bufClear_inRefresh (s : State) : (bufClear s).inRefresh = s.inRefresh := rfl
@[simp] theorem bufClear_cfg (s : State) : (bufClear s).cfg = s.cfg := rfl
@[simp] theorem bufClear_input (s : State) : (bufClear s).input = s.input := rfl
@[simp] theorem bufClear_evOut (s : State) : (bufClear s).evOut = s.evOut := rfl
@[simp] theorem bufClear_draws (s : State) : (bufClear s).draws = s.draws := rfl

@[simp] theorem bufSetLT_buf (s : State) : (bufSetLT s).buf = [chLT] := rfl
@[simp] theorem bufSetLT_last (s : State) : (bufSetLT s).last = s.last := rfl
@[simp] theorem bufSetLT_inRefresh (s : State) : (bufSetLT s).inRefresh = s.inRefresh := rfl
@[simp] theorem bufSetLT_cfg (s : State) : (bufSetLT s).cfg = s.cfg := rfl
@[simp] theorem bufSetLT_input (s : State) : (bufSetLT s).input = s.input := rfl
@[simp] theorem bufSetLT_evOut (s : State) : (bufSetLT s).evOut = s.evOut := rfl
@[simp] theorem bufSetLT_draws (s : State) : (bufSetLT s).draws = s.draws := rfl

@[simp] theorem emit_buf (e : Event) (s : State) : (emit e s).buf = s.buf := rfl
@[simp] theorem emit_last (e : Event) (s : State) : (emit e s).last = s.last := rfl
@[simp] theorem emit_inRefresh (e : Event) (s : State) : (emit e s).inRefresh = s.inRefresh := rfl
@[simp] theorem emit_cfg (e : Event) (s : State) : (emit e s).cfg = s.cfg := rfl
@[simp] theorem emit_input (e : Event) (s : State) : (emit e s).input = s.input := rfl
@[simp] theorem emit_evOut (e : Event) (s : State) : (emit e s).evOut = s.evOut ++ [e] := rfl
@[simp] theorem emit_draws (e : Event) (s : State) : (emit e s).draws = s.draws := rfl

@[simp] theorem countDraw_buf (s : State) : (countDraw s).buf = s.buf := rfl
@[simp] theorem countDraw_last (s : State) : (countDraw s).last = s.last := rfl
@[simp] theorem countDraw_inRefresh (s : State) : (countDraw s).inRefresh = s.inRefresh := rfl
@[simp] theorem countDraw_cfg (s : State) : (countDraw s).cfg = s.cfg := rfl
@[simp] theorem countDraw_input (s : State) : (countDraw s).input = s.input := rfl
@[simp] theorem countDraw_evOut (s : State) : (countDraw s).evOut = s.evOut := rfl
@[simp] theorem countDraw_draws (s : State) : (countDraw s).draws = s.draws + 1 := rfl

@[simp] theorem assertReset_buf (s : State) : (assertReset s).buf = [] := rfl
@[simp] theorem assertReset_last (s : State) : (assertReset s).last = s.cfg.initLast := rfl
@[simp] theorem assertReset_inRefresh (s : State) : (assertReset s).inRefresh = false := rfl
@[simp] theorem assertReset_cfg (s : State) : (assertReset s).cfg = s.cfg := rfl
@[simp] theorem assertReset_input (s : State) : (assertReset s).input = s.input := rfl
@[simp] theorem assertReset_evOut (s : State) : (assertReset s).evOut = s.evOut := rfl
@[simp] theorem assertReset_draws (s : State) : (assertReset s).draws = s.draws := rfl

@[simp] theorem store_level_level (r : LastRegs) (v : IntW) : (store r (.level v)).level = some v := rfl
@[simp] theorem store_level_modeRaw (r : LastRegs) (v : IntW) : (store r (.level v)).modeRaw = r.modeRaw := rfl
@[simp] theorem store_level_stateRaw (r : LastRegs) (v : IntW) : (store r (.level v)).stateRaw = r.stateRaw := rfl
@[simp] theorem store_level_modeTxt (r : LastRegs) (v : IntW) : (store r (.level v)).modeTxt = r.modeTxt := rfl
@[simp] theorem store_level_statusTxt (r : LastRegs) (v : IntW) : (store r (.level v)).statusTxt = r.statusTxt := rfl
@[simp] theorem store_level_sourceTxt (r : LastRegs) (v : IntW) : (store r (.level v)).sourceTxt = r.sourceTxt := rfl

@[simp] theorem store_modeRaw_level (r : LastRegs) (v : Byte) : (store r (.modeRaw v)).level = r.level := rfl
@[simp] theorem store_modeRaw_modeRaw (r : LastRegs) (v : Byte) : (store r (.modeRaw v)).modeRaw = some v := rfl
@[simp] theorem store_modeRaw_stateRaw (r : LastRegs) (v : Byte) : (store r (.modeRaw v)).stateRaw = r.stateRaw := rfl
@[simp] theorem store_modeRaw_modeTxt (r : LastRegs) (v : Byte) : (store r (.modeRaw v)).modeTxt = r.modeTxt := rfl
@[simp] theorem store_modeRaw_statusTxt (r : LastRegs) (v : Byte) : (store r (.modeRaw v)).statusTxt = r.statusTxt := rfl
@[simp] theorem store_modeRaw_sourceTxt (r : LastRegs) (v : Byte) : (store r (.modeRaw v)).sourceTxt = r.sourceTxt := rfl

@[simp] theorem store_stateRaw_level (r : LastRegs) (v : IntW) : (store r (.stateRaw v)).level = r.level := rfl
@[simp] theorem store_stateRaw_modeRaw (r : LastRegs) (v : IntW) : (store r (.stateRaw v)).modeRaw = r.modeRaw := rfl
@[simp] theorem store_stateRaw_stateRaw (r : LastRegs) (v : IntW) : (store r (.stateRaw v)).stateRaw = some v := rfl
@[simp] theorem store_stateRaw_modeTxt (r : LastRegs) (v : IntW) : (store r (.stateRaw v)).modeTxt = r.modeTxt := rfl
@[simp] theorem store_stateRaw_statusTxt (r : LastRegs) (v : IntW) : (store r (.stateRaw v)).statusTxt = r.statusTxt := rfl
@[simp] theorem store_stateRaw_sourceTxt (r : LastRegs) (v : IntW) : (store r (.stateRaw v)).sourceTxt = r.sourceTxt := rfl

@[simp] theorem store_modeTxt_level (r : LastRegs) (v : ModeTxt) : (store r (.modeTxt v)).level = r.level := rfl
@[simp] theorem store_modeTxt_modeRaw (r : LastRegs) (v : ModeTxt) : (store r (.modeTxt v)).modeRaw = r.modeRaw := rfl
@[simp] theorem store_modeTxt_stateRaw (r : LastRegs) (v : ModeTxt) : (store r (.modeTxt v)).stateRaw = r.stateRaw := rfl
@[simp] theorem store_modeTxt_modeTxt (r : LastRegs) (v : ModeTxt) : (store r (.modeTxt v)).modeTxt = some v := rfl
@[simp] theorem store_modeTxt_statusTxt (r : LastRegs) (v : ModeTxt) : (store r (.modeTxt v)).statusTxt = r.statusTxt := rfl
@[simp] theorem store_modeTxt_sourceTxt (r : LastRegs) (v : ModeTxt) : (store r (.modeTxt v)).sourceTxt = r.sourceTxt := rfl

@[simp] theorem store_statusTxt_level (r : LastRegs) (v : StatusTxt) : (store r (.statusTxt v)).level = r.level := rfl
@[simp] theorem store_statusTxt_modeRaw (r : LastRegs) (v : StatusTxt) : (store r (.statusTxt v)).modeRaw = r.modeRaw := rfl
@[simp] theorem store_statusTxt_stateRaw (r : LastRegs) (v : StatusTxt) : (store r (.statusTxt v)).stateRaw = r.stateRaw := rfl
@[simp] theorem store_statusTxt_modeTxt (r : LastRegs) (v : StatusTxt) : (store r (.statusTxt v)).modeTxt = r.modeTxt := rfl
@[simp] theorem store_statusTxt_statusTxt (r : LastRegs) (v : StatusTxt) : (store r (.statusTxt v)).statusTxt = some v := rfl
@[simp] theorem store_statusTxt_sourceTxt (r : LastRegs) (v : StatusTxt) : (store r (.statusTxt v)).sourceTxt = r.sourceTxt := rfl

@[simp] theorem store_sourceTxt_level (r : LastRegs) (v : SourceTxt) : (store r (.sourceTxt v)).level = r.level := rfl
@[simp] theorem store_sourceTxt_modeRaw (r : LastRegs) (v : SourceTxt) : (store r (.sourceTxt v)).modeRaw = r.modeRaw := rfl
@[simp] theorem store_sourceTxt_stateRaw (r : LastRegs) (v : SourceTxt) : (store r (.sourceTxt v)).stateRaw = r.stateRaw := rfl
@[simp] theorem store_sourceTxt_modeTxt (r : LastRegs) (v : SourceTxt) : (store r (.sourceTxt v)).modeTxt = r.modeTxt := rfl
@[simp] theorem store_sourceTxt_statusTxt (r : LastRegs) (v : SourceTxt) : (store r (.sourceTxt v)).statusTxt = r.statusTxt := rfl
@[simp] theorem store_sourceTxt_sourceTxt (r : LastRegs) (v : SourceTxt) : (store r (.sourceTxt v)).sourceTxt = some v := rfl

@[simp] theorem resetWith_buf (cfg : Config) : (State.resetWith cfg).buf = [] := rfl
@[simp] theorem resetWith_last (cfg : Config) : (State.resetWith cfg).last = cfg.initLast := rfl
@[simp] theorem resetWith_inRefresh (cfg : Config) : (State.resetWith cfg).inRefresh = false := rfl
@[simp] theorem resetWith_cfg (cfg : Config) : (State.resetWith cfg).cfg = cfg := rfl
@[simp] theorem resetWith_input (cfg : Config) : (State.resetWith cfg).input = [] := rfl
@[simp] theorem resetWith_evOut (cfg : Config) : (State.resetWith cfg).evOut = [] := rfl
@[simp] theorem resetWith_draws (cfg : Config) : (State.resetWith cfg).draws = 0 := rfl

end Sys2Proof.Machine
end

