-- ==== Sys2Proof/Laws/Ops.lean ====
section
/-! SUPPORT. What each shared operation can do, said once (Machine/Ops.lean, Operands.lean, Flags.lean,
ModeCodes.lean, JsonRecord.lean). -/

namespace Sys2Proof.Machine

theorem holds_iff (r : LastRegs) (p : Pub) : holds r p = true ↔ regPub r p.channel = some p := by
  cases p <;> simp [holds, regPub, Pub.channel, Option.map_eq_some_iff]

/-- Storing what is held changes nothing. -/
theorem store_of_holds {r : LastRegs} {p : Pub} (h : regPub r p.channel = some p) : store r p = r := by
  cases r
  cases p <;> simp_all [regPub, Pub.channel, store, Option.map_eq_some_iff]

@[simp] theorem regPub_store_same (r : LastRegs) (p : Pub) : regPub (store r p) p.channel = some p := by
  cases p <;> rfl

theorem regPub_store_other {r : LastRegs} {p : Pub} {c : Channel} (h : p.channel ≠ c) :
    regPub (store r p) c = regPub r c := by
  cases p <;> cases c <;> first | rfl | exact absurd rfl h

/-- All that `publish` does (41_record_decoder.md R140): the register of its channel holds the value, and
the event goes out where the value is new and the sink is there. -/
theorem publish_eq (p : Pub) (s : State) :
    publish p s = { s with last := store s.last p, evOut := s.evOut ++ eventIfNew s.cfg.sinkEn s.last p } := by
  by_cases h : regPub s.last p.channel = some p
  · have hh := (holds_iff s.last p).mpr h
    simp [publish, hh, store_of_holds h, eventIfNew, h]
  · have hh : holds s.last p = false := by
      rw [← Bool.not_eq_true, holds_iff]; exact h
    by_cases he : sinkEnabled s.cfg.sinkEn p.channel = true <;>
      simp [publish, hh, eventIfNew, h, deliverPub, he, emit]

/-- All that `publishIf` does. -/
theorem publishIf_eq (c : Bool) (p : Pub) (s : State) :
    publishIf c p s = { s with
      last := if c = true then store s.last p else s.last
      evOut := s.evOut ++ if c = true then eventIfNew s.cfg.sinkEn s.last p else [] } := by
  cases c <;> simp [publishIf, publish_eq]

theorem eventIfNew_length (e : SinkEn) (r : LastRegs) (p : Pub) : (eventIfNew e r p).length ≤ 1 := by
  unfold eventIfNew; split <;> simp

/-- Whether a publish is new depends on its own channel's register only. -/
theorem eventIfNew_congr (e : SinkEn) {r r' : LastRegs} {p : Pub} (h : regPub r p.channel = regPub r' p.channel) :
    eventIfNew e r p = eventIfNew e r' p := by
  simp [eventIfNew, h]

/-- All that the four publishes of a mode frame do (R160, R164). -/
theorem publishMode_eq (m : Byte) (mode : ModeTxt) (status : StatusTxt) (source : SourceTxt) (s : State) :
    publishMode m mode status source s = { s with
      last := { s.last with modeRaw := some m, modeTxt := some mode, statusTxt := some status, sourceTxt := some source }
      evOut := s.evOut ++ (eventIfNew s.cfg.sinkEn s.last (.modeRaw m) ++ eventIfNew s.cfg.sinkEn s.last (.modeTxt mode)
        ++ eventIfNew s.cfg.sinkEn s.last (.statusTxt status) ++ eventIfNew s.cfg.sinkEn s.last (.sourceTxt source)) } := by
  simp only [publishMode, publish_eq, List.append_assoc]
  rfl

/-- All that a warning does (R165). -/
theorem warnIfUnmapped_eq (m : Byte) (row : Option ModeRow) (s : State) :
    warnIfUnmapped m row s = { s with evOut := s.evOut ++ if row = none then [.warn m] else [] } := by
  cases row <;> simp [warnIfUnmapped, emit]

/-- All that a mode byte does (41_record_decoder.md R160 to R167). -/
theorem classify_eq (m : Byte) (s : State) :
    classify m s = { s with
      inRefresh := nextRefresh m (lookup s.cfg.modeTable m) s.inRefresh
      last := { s.last with
        modeRaw := some m
        modeTxt := some (resolveMode m (lookup s.cfg.modeTable m) (nextRefresh m (lookup s.cfg.modeTable m) s.inRefresh))
        statusTxt := some (resolveStatus (lookup s.cfg.modeTable m))
        sourceTxt := some (resolveSource (lookup s.cfg.modeTable m)) }
      evOut := s.evOut ++ ((if lookup s.cfg.modeTable m = none then [.warn m] else [])
        ++ eventIfNew s.cfg.sinkEn s.last (.modeRaw m)
        ++ eventIfNew s.cfg.sinkEn s.last
            (.modeTxt (resolveMode m (lookup s.cfg.modeTable m) (nextRefresh m (lookup s.cfg.modeTable m) s.inRefresh)))
        ++ eventIfNew s.cfg.sinkEn s.last (.statusTxt (resolveStatus (lookup s.cfg.modeTable m)))
        ++ eventIfNew s.cfg.sinkEn s.last (.sourceTxt (resolveSource (lookup s.cfg.modeTable m)))) } := by
  simp only [classify, publishMode_eq, warnIfUnmapped_eq, List.append_assoc]

/-- Every mode byte runs `classify`, whichever row it selects. -/
theorem runModeByte_eq (m : Byte) (s : State) : runModeByte m s = .next (classify m s) := by
  unfold runModeByte
  cases h : modeSel m <;> simp only [modeSel] at h <;>
    (repeat' split at h) <;> first | (cases h; done) | (subst_vars; rfl)

/-- The dispatcher of mode bytes runs the decoded instruction. -/
theorem exec_decodeMode (m : Byte) (s : State) : exec (decodeMode m) s = .next (classify m s) := by
  rw [← runModeByte_eq]
  unfold decodeMode runModeByte
  cases modeSel m <;> rfl

/-- The dispatcher of flushed records runs the decoded instruction (40_reassembler.md R119). -/
theorem dispatchFlushed_eq_exec (r : Bytes) (s : State) :
    dispatchFlushed r s = exec (decodeFlushed s.cfg.hexLeadRequired r) s := by
  unfold dispatchFlushed decodeFlushed
  cases stripLead s.cfg.hexLeadRequired r with
  | none => rfl
  | some t =>
    simp only [hexDispatch, decodeStripped]
    cases hexRow t <;> rfl

/-- The state after reading a payload pair: as before, or one draw later. -/
theorem hex2_state (c1 c2 : Byte) (s : State) : (hex2 c1 c2 s).2 = s ∨ (hex2 c1 c2 s).2 = countDraw s := by
  unfold hex2
  cases hexPairValue c1 c2 with
  | some v => exact .inl rfl
  | none =>
    simp only [hex2Malformed]
    split
    · exact .inl rfl
    · exact .inr rfl

/-- The state after reading a JSON field: as before, or one draw later. -/
theorem fieldValue_state (r k : Bytes) (s : State) :
    (fieldValue r k s).2 = s ∨ (fieldValue r k s).2 = countDraw s := by
  unfold fieldValue
  cases fieldText r k with
  | none => exact .inl rfl
  | some t =>
    simp only [decParse]
    split
    · exact .inl rfl
    · exact .inr rfl

theorem mapNext_next {f : State → State} {o : Host.Outcome State Fault Refusal} {t : State} :
    mapNext f o = .next t ↔ ∃ u, o = .next u ∧ t = f u := by
  cases o <;> simp [mapNext, eq_comm]

theorem flushBoundary_cases {s t : State} (h : flushBoundary s = .next t) :
    (s.buf = [] ∧ t = s)
    ∨ (s.buf ≠ [] ∧ ∃ u, exec (decodeFlushed s.cfg.hexLeadRequired s.buf) s = .next u ∧ t = bufClear u) := by
  unfold flushBoundary at h
  split at h
  · rename_i hl
    rw [dispatchFlushed_eq_exec] at h
    exact .inr ⟨List.ne_nil_of_length_pos hl, mapNext_next.mp h⟩
  · rename_i hl
    have : s.buf = [] := by simpa [Memory.len] using hl
    exact .inl ⟨this, by cases h; rfl⟩

theorem execFeedLt_cases {s t : State} (h : execFeedLt s = .next t) :
    (s.buf = [] ∧ t = bufSetLT s)
    ∨ (s.buf ≠ [] ∧ ∃ u, exec (decodeFlushed s.cfg.hexLeadRequired s.buf) s = .next u ∧ t = bufSetLT u) := by
  unfold execFeedLt at h
  split at h
  · rename_i hl
    rw [dispatchFlushed_eq_exec] at h
    exact .inr ⟨List.ne_nil_of_length_pos hl, mapNext_next.mp h⟩
  · rename_i hl
    have : s.buf = [] := by simpa [Memory.len] using hl
    exact .inl ⟨this, by cases h; rfl⟩

/-- All that FEED_OTHER can do (40_reassembler.md R113): complete a record, overflow, or keep the byte. -/
theorem execFeedOther_cases {b : Byte} {s t : State} (h : execFeedOther b s = .next t) :
    (∃ i j u, jsonBounds (s.buf ++ [b]) = some (i, j)
        ∧ execDecJson (jsonRecordAt (s.buf ++ [b]) i j) (bufAppend b s) = .next u ∧ t = bufClear u)
    ∨ (jsonBounds (s.buf ++ [b]) = none ∧ s.cfg.bufCap < s.buf.length + 1 ∧ t = bufClear s)
    ∨ (jsonBounds (s.buf ++ [b]) = none ∧ s.buf.length + 1 ≤ s.cfg.bufCap ∧ t = bufAppend b s) := by
  unfold execFeedOther at h
  simp only [bufAppend_buf] at h
  cases hb : jsonBounds (s.buf ++ [b]) with
  | some ij =>
    rw [hb] at h
    obtain ⟨u, h1, h2⟩ := mapNext_next.mp h
    exact .inl ⟨ij.1, ij.2, u, rfl, h1, h2⟩
  | none =>
    rw [hb] at h
    refine .inr ?_
    have h : overflowGuard (bufAppend b s) = t := by simpa using h
    have hlen : Memory.len (bufAppend b s).buf = s.buf.length + 1 := by simp [Memory.len]
    unfold overflowGuard at h
    rw [hlen] at h
    split at h
    · rename_i hl
      exact .inl ⟨rfl, hl, h.symm⟩
    · rename_i hl
      exact .inr ⟨rfl, Nat.le_of_not_lt hl, h.symm⟩

end Sys2Proof.Machine
end

