-- ==== Sys2Proof/Laws/Text.lean ====
section
/-! SUPPORT. What `startsWith`, `slice`, `find` and `jsonBounds` (Machine/Patterns.lean) say. -/

namespace Sys2Proof

theorem startsWith_iff {s p : Bytes} : startsWith s p = true ↔ s.take p.length = p := by
  unfold startsWith
  rw [List.isPrefixOf_iff_prefix, List.prefix_iff_eq_take]
  exact eq_comm

theorem startsWith_append (p t : Bytes) : startsWith (p ++ t) p = true := by
  simp [startsWith_iff]

/-- A string that starts with `p` is `p` and the rest. -/
theorem eq_append_drop_of_startsWith {s p : Bytes} (h : startsWith s p = true) : s = p ++ s.drop p.length := by
  have h' := startsWith_iff.mp h
  conv_lhs => rw [← List.take_append_drop p.length s, h']

theorem slice_eq_take_drop (s : Bytes) (i n : Nat) : slice s i (i + n) = (s.drop i).take n := by
  simp [slice]

theorem startsWith_drop_iff {s p : Bytes} {i : Nat} :
    p.isPrefixOf (s.drop i) = true ↔ slice s i (i + p.length) = p := by
  rw [slice_eq_take_drop]
  exact startsWith_iff (s := s.drop i)

theorem findHead_eq_some {p : Bytes} (hp : p ≠ []) (s : Bytes) (i : Nat) :
    findHead p s = some i ↔ p.isPrefixOf (s.drop i) = true ∧ ∀ n, n < i → ¬ p.isPrefixOf (s.drop n) = true := by
  induction s generalizing i with
  | nil =>
    obtain ⟨c, p, rfl⟩ := List.exists_cons_of_ne_nil hp
    simp [findHead, List.isPrefixOf]
  | cons c s ih =>
    unfold findHead
    by_cases h : p.isPrefixOf (c :: s) = true
    · rw [if_pos h]
      constructor
      · rintro ⟨⟩
        exact ⟨by simpa using h, fun n hn => absurd hn (Nat.not_lt_zero n)⟩
      · rintro ⟨-, hmin⟩
        cases i with
        | zero => rfl
        | succ i => exact absurd (by simpa using h) (hmin 0 (Nat.succ_pos i))
    · rw [if_neg h]
      cases i with
      | zero => simp [h]
      | succ i =>
        simp only [Option.map_eq_some_iff, Nat.add_right_cancel_iff, exists_eq_right, ih, List.drop_succ_cons]
        constructor
        · rintro ⟨h1, h2⟩
          refine ⟨h1, fun n hn => ?_⟩
          cases n with
          | zero => simpa using h
          | succ n => simpa using h2 n (Nat.lt_of_succ_lt_succ hn)
        · rintro ⟨h1, h2⟩
          exact ⟨h1, fun n hn => by simpa using h2 (n + 1) (Nat.succ_lt_succ hn)⟩

theorem findHead_eq_none {p : Bytes} (hp : p ≠ []) (s : Bytes) :
    findHead p s = none ↔ ∀ n, ¬ p.isPrefixOf (s.drop n) = true := by
  constructor
  · intro h n hn
    have hex : ∃ n, p.isPrefixOf (s.drop n) = true := ⟨n, hn⟩
    have := (findHead_eq_some hp s (Nat.find hex)).mpr ⟨Nat.find_spec hex, fun k hk => Nat.find_min hex hk⟩
    rw [h] at this
    cases this
  · intro h
    cases hf : findHead p s with
    | none => rfl
    | some i => exact absurd ((findHead_eq_some hp s i).mp hf).1 (h i)

/-- All that `find` says when it finds: the least index from `k` on (00_scope.md R11). -/
theorem find_eq_some {s p : Bytes} {k i : Nat} (hp : p ≠ []) :
    find s p k = some i ↔
      k ≤ i ∧ slice s i (i + p.length) = p ∧ ∀ n, k ≤ n → n < i → slice s n (n + p.length) ≠ p := by
  unfold find
  simp only [Option.map_eq_some_iff, findHead_eq_some hp, List.drop_drop, startsWith_drop_iff]
  constructor
  · rintro ⟨a, ⟨h1, h2⟩, rfl⟩
    refine ⟨by omega, by simpa [Nat.add_comm] using h1, fun n hn hlt => ?_⟩
    have h := h2 (n - k) (by omega)
    rwa [show k + (n - k) = n by omega] at h
  · rintro ⟨hk, h1, h2⟩
    refine ⟨i - k, ⟨?_, fun n hn => h2 (k + n) (by omega) (by omega)⟩, by omega⟩
    rwa [show k + (i - k) = i by omega]

/-- All that `find` says when it finds nothing. -/
theorem find_eq_none {s p : Bytes} {k : Nat} (hp : p ≠ []) :
    find s p k = none ↔ ∀ n, k ≤ n → slice s n (n + p.length) ≠ p := by
  unfold find
  simp only [Option.map_eq_none_iff, findHead_eq_none hp, List.drop_drop, startsWith_drop_iff]
  constructor
  · intro h n hn
    have := h (n - k)
    rwa [show k + (n - k) = n by omega] at this
  · exact fun h n => h (k + n) (by omega)

@[simp] theorem jsonOpen_length : jsonOpen.length = 13 := rfl

@[simp] theorem jsonClose_length : jsonClose.length = 2 := rfl

/-- All that `jsonBounds` says when it bounds a record (40_reassembler.md R114). -/
theorem jsonBounds_eq_some {m : Bytes} {i j : Nat} :
    jsonBounds m = some (i, j) ↔ find m jsonOpen 0 = some i ∧ find m jsonClose (i + 13) = some j := by
  unfold jsonBounds
  cases h : find m jsonOpen 0 with
  | none => simp
  | some a =>
    simp only [jsonOpen_length]
    cases h' : find m jsonClose (a + 13) with
    | none =>
      simp only [reduceCtorEq, Option.some.injEq, false_iff, not_and]
      rintro rfl; simp [h']
    | some b =>
      simp only [Option.some.injEq, Prod.mk.injEq]
      constructor
      · rintro ⟨rfl, rfl⟩; exact ⟨rfl, h'⟩
      · rintro ⟨rfl, h2⟩; rw [h'] at h2; exact ⟨rfl, by simpa using h2⟩

/-- All that `jsonBounds` says when it bounds nothing: no `JSON_CLOSE` stands at or after the end of any
`JSON_OPEN`. -/
theorem jsonBounds_eq_none {m : Bytes} :
    jsonBounds m = none ↔
      ∀ i j, slice m i (i + 13) = jsonOpen → i + 13 ≤ j → slice m j (j + 2) ≠ jsonClose := by
  have ho : jsonOpen ≠ [] := by decide
  have hc : jsonClose ≠ [] := by decide
  constructor
  · intro h i j hi hj hc'
    cases h1 : find m jsonOpen 0 with
    | none => exact (find_eq_none ho).mp h1 i (Nat.zero_le i) hi
    | some a =>
      have ha : a ≤ i := by
        by_contra hlt
        exact ((find_eq_some ho).mp h1).2.2 i (Nat.zero_le i) (by omega) hi
      cases h2 : find m jsonClose (a + 13) with
      | none => exact (find_eq_none hc).mp h2 j (by omega) hc'
      | some b => rw [jsonBounds_eq_some.mpr ⟨h1, h2⟩] at h; cases h
  · intro h
    cases hb : jsonBounds m with
    | none => rfl
    | some ij =>
      obtain ⟨i, j⟩ := ij
      obtain ⟨h1, h2⟩ := jsonBounds_eq_some.mp hb
      have h1 := (find_eq_some ho).mp h1
      have h2 := (find_eq_some hc).mp h2
      exact absurd h2.2.1 (h i j h1.2.1 h2.1)

end Sys2Proof
end

