-- ==== Sys2Proof/Laws/Buffer.lean ====
section
/-! SUPPORT. The pending buffer's canonical form (spec 40_reassembler.md R120) and the operations that
keep it (20_memory.md R51). -/

namespace Sys2Proof.Machine

/-- The check `Memory.wf` says exactly the invariants of R120. -/
theorem wf_iff (cap : Nat) (m : Memory) : Memory.wf cap m = true ↔ BufInvariant cap m := by
  have hd : jsonBounds m = none ↔
      ∀ i j, slice m i (i + 13) = jsonOpen → i + 13 ≤ j → slice m j (j + 2) ≠ jsonClose := jsonBounds_eq_none
  have hb : (∀ b ∈ m, b ≠ chCR ∧ b ≠ chLF) ↔ chCR ∉ m ∧ chLF ∉ m :=
    ⟨fun h => ⟨fun hm => (h _ hm).1 rfl, fun hm => (h _ hm).2 rfl⟩,
      fun h b hm => ⟨fun e => h.1 (e ▸ hm), fun e => h.2 (e ▸ hm)⟩⟩
  have hc : (∀ b ∈ m.tail, b ≠ chLT) ↔ ∀ k, Memory.read m k = some chLT → k = 0 := by
    constructor
    · intro h k hk
      cases k with
      | zero => rfl
      | succ k =>
        have : m.tail[k]? = some chLT := by rw [List.getElem?_tail]; exact hk
        exact absurd rfl (h _ (List.mem_of_getElem? this))
    · rintro h b hbm rfl
      obtain ⟨k, hk⟩ := List.getElem?_of_mem hbm
      rw [List.getElem?_tail] at hk
      exact absurd (h (k + 1) hk) (Nat.succ_ne_zero k)
  simp only [Memory.wf, Memory.len, Bool.and_eq_true, decide_eq_true_eq, List.all_eq_true, BufInvariant, hd, hb, hc,
    and_assoc]
  exact and_congr_left fun _ => decide_eq_true_iff

theorem wf_nil (cap : Nat) : Memory.wf cap [] = true := by
  simp [Memory.wf, Memory.len]; decide

/-- The one-byte buffer fits wherever any byte does. -/
theorem wf_setLT {cap : Nat} (h : 1 ≤ cap) : Memory.wf cap [chLT] = true := by
  simp [Memory.wf, Memory.len, h]; decide

theorem plainByte_iff (b : Byte) : plainByte b = true ↔ b ≠ chCR ∧ b ≠ chLF ∧ b ≠ chLT := by
  unfold plainByte classOf
  split <;> [skip; split <;> [skip; split]] <;> simp_all

/-- BufAppend of a plain byte keeps the form where neither JsonCheck nor the guard acts (R113). -/
theorem wf_append {cap : Nat} {m : Memory} {b : Byte} (hm : Memory.wf cap m = true) (hb : plainByte b = true)
    (hj : jsonBounds (Memory.append m b) = none) (hl : Memory.len (Memory.append m b) ≤ cap) :
    Memory.wf cap (Memory.append m b) = true := by
  obtain ⟨h1, h2, h3⟩ := (plainByte_iff b).mp hb
  simp only [Memory.wf, Bool.and_eq_true, decide_eq_true_eq, List.all_eq_true] at hm ⊢
  obtain ⟨⟨⟨-, hcl⟩, hlt⟩, -⟩ := hm
  refine ⟨⟨⟨hl, fun c hc => ?_⟩, fun c hc => ?_⟩, hj⟩
  · rcases List.mem_append.mp hc with hc | hc
    · exact hcl c hc
    · rw [List.mem_singleton.mp hc]; exact ⟨h1, h2⟩
  · cases m with
    | nil => simp [Memory.append] at hc
    | cons a m =>
      have hc : c ∈ m ++ [b] := hc
      rcases List.mem_append.mp hc with hc | hc
      · exact hlt c hc
      · rw [List.mem_singleton.mp hc]; exact h3

theorem reset_wf (cfg : Config) : Memory.wf cfg.bufCap (State.resetWith cfg).buf = true := wf_nil _

@[simp] theorem hex2_buf (c1 c2 : Byte) (s : State) : (hex2 c1 c2 s).2.buf = s.buf := by
  rcases hex2_state c1 c2 s with h | h <;> simp [h]

@[simp] theorem fieldValue_buf (r k : Bytes) (s : State) : (fieldValue r k s).2.buf = s.buf := by
  rcases fieldValue_state r k s with h | h <;> simp [h]

/-- Decoder operations leave the buffer alone (10_state.md R29). -/
theorem exec_decoder_buf {i : Instr} (hi : sourceOf i ≠ .byteIn) {s t : State} (h : exec i s = .next t) :
    t.buf = s.buf := by
  cases i
  case decLevel2053 c1 c2 x =>
    cases h
    cases hx : hex2 c1 c2 s with
    | mk o u =>
      have hu : u.buf = s.buf := by simpa [hx] using hex2_buf c1 c2 s
      cases o with
      | none => exact hu
      | some v => simp only [levelFrame, publish_eq]; exact hu
  case decMode1053 c1 c2 x =>
    have h : modeFrame (hex2 c1 c2 s) = .next t := h
    cases hx : hex2 c1 c2 s with
    | mk o u =>
      have hu : u.buf = s.buf := by simpa [hx] using hex2_buf c1 c2 s
      rw [hx] at h
      cases o with
      | none => cases h; exact hu
      | some m => rw [modeFrame, runModeByte_eq] at h; cases h; rw [classify_eq]; exact hu
  case decJson r =>
    cases h
    simp only [publishJson, publishIf_eq, fieldValue_buf]
  all_goals first
    | exact absurd rfl hi
    | (cases h; rfl)
    | (cases h; simp only [classify_eq])

end Sys2Proof.Machine
end

