-- ==== Sys2Proof/Laws/Operands.lean ====
section
/-! SUPPORT. Small lemmas of the operand forms (Machine/Operands.lean). -/

namespace Sys2Proof.Machine

theorem isSpace_iff (c : Byte) : isSpace c = true ↔ c = 0x20#8 ∨ c = 0x09#8 ∨ c = 0x0B#8 ∨ c = 0x0C#8 := by
  simp [isSpace, or_assoc]

theorem isDigit_iff (c : Byte) : isDigit c = true ↔ 0x30 ≤ c.toNat ∧ c.toNat ≤ 0x39 := by
  simp [isDigit]

theorem inRange_iff (w : Nat) (v : Int) : inRange w v = true ↔ IntFits w v := by
  unfold inRange
  rw [Bool.and_eq_true, decide_eq_true_iff, decide_eq_true_iff]

/-- A word of `w` bits read as a signed number fits `w` bits. -/
theorem toInt_fits {w : Nat} (v : BitVec w) : IntFits w v.toInt := by
  have h1 := BitVec.le_toInt v
  have h2 := BitVec.toInt_lt (x := v)
  unfold IntFits
  push_cast
  omega

theorem zextInt_fits (w : Nat) (v : Byte) : IntFits w (zextInt w v) := toInt_fits _

/-- A register of 9 bits or more holds a zero-extended byte as its unsigned value (41_record_decoder.md
R147: 0 to 255). -/
theorem zextInt_eq {w : Nat} (hw : 9 ≤ w) (v : Byte) : zextInt w v = v.toNat := by
  have hv := v.isLt
  have hp : 2 ^ 9 ≤ 2 ^ w := Nat.pow_le_pow_right (by omega) hw
  unfold zextInt
  rw [BitVec.toInt_eq_toNat_cond, BitVec.toNat_setWidth, Nat.mod_eq_of_lt (by omega), if_pos (by omega)]

/-- The sentinel -1 fits every width. -/
theorem absentValue_fits (w : Nat) : IntFits w absentValue := by
  have : 1 ≤ 2 ^ (w - 1) := Nat.one_le_two_pow
  unfold IntFits absentValue
  omega

/-- Whatever a field reads as fits INT_W (42_json_decoder.md R192, R193). -/
theorem fieldValue_fits (r k : Bytes) (s : State) : IntFits s.cfg.intW (fieldValue r k s).1 := by
  unfold fieldValue
  cases fieldText r k with
  | none => exact absentValue_fits _
  | some t =>
    simp only [decParse]
    split
    · rename_i h; exact (inRange_iff _ _).mp h
    · exact toInt_fits _

/-- What is picked is one of the answers. -/
theorem hex2Pick_allows (a : Hex2Answers) (r : Option Byte) : hex2Allows a (hex2Pick a r) = true := by
  cases a with
  | any => rfl
  | these first more =>
    refine decide_eq_true ?_
    simp only [hex2Pick]
    split
    · assumption
    · exact List.mem_cons_self

/-- All that a malformed pair does (41_record_decoder.md R145): it answers what the relation admits, and
at most counts a draw; a single answer takes none. -/
theorem hex2Malformed_cases (c1 c2 : Byte) (s : State) :
    (∃ r, hex2Answers s.cfg.hex2Relation c1 c2 = .these r [] ∧ hex2Malformed c1 c2 s = (r, s))
    ∨ ∃ r, hex2Allows (hex2Answers s.cfg.hex2Relation c1 c2) r = true ∧ hex2Malformed c1 c2 s = (r, countDraw s) := by
  unfold hex2Malformed
  split
  · rename_i r h; exact .inl ⟨r, h, rfl⟩
  · exact .inr ⟨_, hex2Pick_allows _ _, rfl⟩

@[simp] theorem keyPattern_length (k : Bytes) : (keyPattern k).length = k.length + 4 := by
  simp [keyPattern]

/-- A hex digit is worth 0 to 15 (41_record_decoder.md R144). -/
theorem hv_lt {c : Byte} {h : Nat} (hc : hv c = some h) : h < 16 := by
  unfold hv at hc
  repeat' split at hc
  all_goals first | (cases hc; omega) | cases hc

theorem hexPairValue_of_digits {c1 c2 : Byte} {h l : Nat} (h1 : hv c1 = some h) (h2 : hv c2 = some l) :
    hexPairValue c1 c2 = some (BitVec.ofNat 8 (16 * h + l)) := by
  simp [hexPairValue, h1, h2]

theorem hexPairValue_eq_none {c1 c2 : Byte} : hexPairValue c1 c2 = none ↔ hv c1 = none ∨ hv c2 = none := by
  unfold hexPairValue
  cases hv c1 <;> cases hv c2 <;> simp

end Sys2Proof.Machine
end

