-- ==== Sys2Proof/Laws/Exec.lean ====
section
/-! SUPPORT. Inductions over what an operation can do, packaged once: a property kept by every primitive
update is kept by every operation, and the effect of an operation does not depend on the ports. -/

namespace Sys2Proof.Machine

/-- A publish the configuration admits: an integer of INT_W bits, and no negative one under NONNEG where
INT_W holds a payload byte (30_encoding.md R102). -/
def PubOk (cfg : Config) (p : Pub) : Prop :=
  EventFits cfg.intW (.pub p) ∧ (9 ≤ cfg.intW → cfg.jsonAccept = .nonneg → eventNonneg (.pub p))

/-- The updates that every operation is made of. -/
structure KeptByUpdates (P : State → Prop) : Prop where
  buf : ∀ s m, P s → P { s with buf := m }
  flag : ∀ s f, P s → P { s with inRefresh := f }
  warn : ∀ s m, P s → P (emit (.warn m) s)
  pub : ∀ s p, PubOk s.cfg p → P s → P (publish p s)
  draw : ∀ s, P s → P (countDraw s)

theorem level_ok (cfg : Config) (v : Byte) : PubOk cfg (.level (zextInt cfg.intW v)) :=
  ⟨zextInt_fits _ v, fun hw _ => by simp only [eventNonneg, zextInt_eq hw]; exact Int.natCast_nonneg _⟩

theorem eventNonneg_of_accept {v : IntW} (h : accept .nonneg v = true) : 0 ≤ v := by
  simpa [accept] using h

theorem classify_kept {P : State → Prop} (hP : KeptByUpdates P) (m : Byte) {s : State} (hs : P s) : P (classify m s) := by
  have hw : P (warnIfUnmapped m (lookup s.cfg.modeTable m) s) := by
    cases lookup s.cfg.modeTable m with
    | none => exact hP.warn _ _ hs
    | some r => exact hs
  have hf := hP.flag _ (nextRefresh m (lookup s.cfg.modeTable m) s.inRefresh) hw
  exact hP.pub _ _ ⟨trivial, fun _ _ => trivial⟩ (hP.pub _ _ ⟨trivial, fun _ _ => trivial⟩
    (hP.pub _ _ ⟨trivial, fun _ _ => trivial⟩ (hP.pub _ _ ⟨trivial, fun _ _ => trivial⟩ hf)))

theorem hex2_kept {P : State → Prop} (hP : KeptByUpdates P) (c1 c2 : Byte) {s : State} (hs : P s) : P (hex2 c1 c2 s).2 := by
  rcases hex2_state c1 c2 s with h | h <;> rw [h]
  · exact hs
  · exact hP.draw _ hs

theorem fieldValue_kept {P : State → Prop} (hP : KeptByUpdates P) (r k : Bytes) {s : State} (hs : P s) :
    P (fieldValue r k s).2 := by
  rcases fieldValue_state r k s with h | h <;> rw [h]
  · exact hs
  · exact hP.draw _ hs

@[simp] theorem publish_cfg (p : Pub) (s : State) : (publish p s).cfg = s.cfg := by rw [publish_eq]

@[simp] theorem publishIf_cfg (c : Bool) (p : Pub) (s : State) : (publishIf c p s).cfg = s.cfg := by rw [publishIf_eq]

theorem publishIf_kept {P : State → Prop} (hP : KeptByUpdates P) {c : Bool} {p : Pub} {s : State}
    (hok : c = true → PubOk s.cfg p) (hs : P s) : P (publishIf c p s) := by
  cases c with
  | false => exact hs
  | true => exact hP.pub _ _ (hok rfl) hs

theorem publishJson_kept {P : State → Prop} (hP : KeptByUpdates P) {top st : IntW} {s : State}
    (h1 : IntFits s.cfg.intW top) (h2 : IntFits s.cfg.intW st) (hs : P s) : P (publishJson top st s) := by
  unfold publishJson
  refine publishIf_kept hP (fun ha => ?_) (publishIf_kept hP (fun ha => ?_) hs)
  · rw [publishIf_cfg]
    exact ⟨h2, fun _ hn => eventNonneg_of_accept (hn ▸ ha)⟩
  · exact ⟨h1, fun _ hn => eventNonneg_of_accept (hn ▸ ha)⟩

@[simp] theorem hex2_cfg (c1 c2 : Byte) (s : State) : (hex2 c1 c2 s).2.cfg = s.cfg := by
  rcases hex2_state c1 c2 s with h | h <;> simp [h]

@[simp] theorem fieldValue_cfg (r k : Bytes) (s : State) : (fieldValue r k s).2.cfg = s.cfg := by
  rcases fieldValue_state r k s with h | h <;> simp [h]

theorem execDecJson_kept {P : State → Prop} (hP : KeptByUpdates P) {r : Bytes} {s t : State} (hs : P s)
    (h : execDecJson r s = .next t) : P t := by
  cases h
  refine publishJson_kept hP ?_ ?_ (fieldValue_kept hP _ _ (fieldValue_kept hP _ _ hs))
  · simpa using fieldValue_fits r keyTop s
  · simpa using fieldValue_fits r keyState (fieldValue r keyTop s).2

/-- Every decoder operation keeps a property that the updates keep. -/
theorem exec_kept_decoder {P : State → Prop} (hP : KeptByUpdates P) {i : Instr} (hi : sourceOf i ≠ .byteIn)
    {s t : State} (hs : P s) (h : exec i s = .next t) : P t := by
  cases i
  case decLevel2053 c1 c2 x =>
    cases h
    have hk := hex2_kept hP c1 c2 hs
    cases hx : hex2 c1 c2 s with
    | mk o u =>
      rw [hx] at hk
      cases o with
      | none => exact hk
      | some v => exact hP.pub _ _ (level_ok _ v) hk
  case decMode1053 c1 c2 x =>
    have hk := hex2_kept hP c1 c2 hs
    have h : modeFrame (hex2 c1 c2 s) = .next t := h
    cases hx : hex2 c1 c2 s with
    | mk o u =>
      rw [hx] at hk h
      cases o with
      | none => cases h; exact hk
      | some m =>
        rw [modeFrame, runModeByte_eq] at h
        cases h
        exact classify_kept hP m hk
  case decJson r => exact execDecJson_kept hP hs h
  all_goals first
    | exact absurd rfl hi
    | (cases h; exact hs)
    | (cases h; exact classify_kept hP _ hs)

theorem sourceOf_decodeFlushed (lead : Bool) (r : Bytes) : sourceOf (decodeFlushed lead r) = .flushed := by
  unfold decodeFlushed
  cases stripLead lead r with
  | none => rfl
  | some s =>
    simp only [decodeStripped]
    cases hexRow s <;> rfl

theorem decodeFlushed_not_byteIn (lead : Bool) (r : Bytes) : sourceOf (decodeFlushed lead r) ≠ .byteIn := by
  rw [sourceOf_decodeFlushed]; decide

/-- Every operation keeps a property that the updates keep. -/
theorem exec_kept {P : State → Prop} (hP : KeptByUpdates P) {i : Instr} {s t : State} (hs : P s)
    (h : exec i s = .next t) : P t := by
  by_cases hi : sourceOf i = .byteIn
  · cases i <;> try (cases hi; done)
    case feedCr | feedLf =>
      rcases flushBoundary_cases h with ⟨-, rfl⟩ | ⟨-, u, hu, rfl⟩
      · exact hs
      · exact hP.buf _ _ (exec_kept_decoder hP (decodeFlushed_not_byteIn _ _) hs hu)
    case feedLt =>
      rcases execFeedLt_cases h with ⟨-, rfl⟩ | ⟨-, u, hu, rfl⟩
      · exact hP.buf _ _ hs
      · exact hP.buf _ _ (exec_kept_decoder hP (decodeFlushed_not_byteIn _ _) hs hu)
    case feedOther b =>
      rcases execFeedOther_cases h with ⟨i, j, u, -, hu, rfl⟩ | ⟨-, -, rfl⟩ | ⟨-, -, rfl⟩
      · exact hP.buf _ _ (execDecJson_kept hP (hP.buf _ _ hs) hu)
      · exact hP.buf _ _ hs
      · exact hP.buf _ _ hs
  · exact exec_kept_decoder hP hi hs h

/-- The same with other ports: another buffer, other pending inputs, other events gone. -/
def withPorts (m : Memory) (inp : List Stimulus) (evs : List Event) (s : State) : State :=
  { s with buf := m, input := inp, evOut := evs }

/-- What `f` does from `s` whatever stands on its ports: at most `n` events are added, and the registers,
the flag and the draw counter it leaves are always the same. -/
def HasEffect (n : Nat) (f : State → Host.Outcome State Fault Refusal) (s : State) : Prop :=
  ∃ last flag draws new, List.length new ≤ n ∧ ∀ m inp evs,
    f (withPorts m inp evs s) = .next
      { s with buf := m, input := inp, evOut := evs ++ new, last := last, inRefresh := flag, draws := draws }

theorem classify_effect (m : Byte) (s : State) : HasEffect 5 (fun t => .next (classify m t)) s := by
  refine ⟨(classify m s).last, (classify m s).inRefresh, s.draws,
    (if lookup s.cfg.modeTable m = none then [.warn m] else [])
      ++ eventIfNew s.cfg.sinkEn s.last (.modeRaw m)
      ++ eventIfNew s.cfg.sinkEn s.last
          (.modeTxt (resolveMode m (lookup s.cfg.modeTable m) (nextRefresh m (lookup s.cfg.modeTable m) s.inRefresh)))
      ++ eventIfNew s.cfg.sinkEn s.last (.statusTxt (resolveStatus (lookup s.cfg.modeTable m)))
      ++ eventIfNew s.cfg.sinkEn s.last (.sourceTxt (resolveSource (lookup s.cfg.modeTable m))),
    ?_, fun b inp evs => by simp only [classify_eq, withPorts]⟩
  simp only [List.length_append]
  have h := fun p => eventIfNew_length s.cfg.sinkEn s.last p
  have h1 := h (.modeRaw m)
  have h2 := h (.statusTxt (resolveStatus (lookup s.cfg.modeTable m)))
  have h3 := h (.sourceTxt (resolveSource (lookup s.cfg.modeTable m)))
  have h4 := h (.modeTxt (resolveMode m (lookup s.cfg.modeTable m)
    (nextRefresh m (lookup s.cfg.modeTable m) s.inRefresh)))
  split <;> simp only [List.length_cons, List.length_nil] <;> omega

theorem nothing_effect (n : Nat) (s : State) : HasEffect n (fun t => .next t) s :=
  ⟨s.last, s.inRefresh, s.draws, [], Nat.zero_le _, fun m inp evs => by simp [withPorts]⟩

theorem HasEffect.mono {n k : Nat} {f : State → Host.Outcome State Fault Refusal} {s : State}
    (h : HasEffect n f s) (hnk : n ≤ k) : HasEffect k f s := by
  obtain ⟨l, fl, d, new, hl, he⟩ := h
  exact ⟨l, fl, d, new, hl.trans hnk, he⟩

/-- A payload pair reads the same whatever stands on the ports, and leaves only a draw. -/
theorem hex2_ports (c1 c2 : Byte) (s : State) :
    ∃ v d, ∀ m inp evs, hex2 c1 c2 (withPorts m inp evs s) = (v, { withPorts m inp evs s with draws := d }) := by
  unfold hex2
  cases hexPairValue c1 c2 with
  | some v => exact ⟨some v, s.draws, fun _ _ _ => rfl⟩
  | none =>
    unfold hex2Malformed
    simp only [withPorts]
    split
    · exact ⟨_, s.draws, fun _ _ _ => rfl⟩
    · exact ⟨_, s.draws + 1, fun _ _ _ => rfl⟩

theorem level_effect (c1 c2 : Byte) (tail : Bytes) (s : State) : HasEffect 1 (execDecLevel2053 c1 c2 tail) s := by
  obtain ⟨o, d, h⟩ := hex2_ports c1 c2 s
  unfold HasEffect execDecLevel2053
  cases o with
  | none =>
    refine ⟨s.last, s.inRefresh, d, [], Nat.zero_le _, fun m inp evs => ?_⟩
    rw [h]; simp [withPorts, levelFrame]
  | some v =>
    refine ⟨store s.last (.level (zextInt s.cfg.intW v)), s.inRefresh, d, _,
      eventIfNew_length s.cfg.sinkEn s.last (.level (zextInt s.cfg.intW v)), fun m inp evs => ?_⟩
    rw [h]; simp only [levelFrame, publish_eq, withPorts]

theorem mode_effect (c1 c2 : Byte) (tail : Bytes) (s : State) : HasEffect 5 (execDecMode1053 c1 c2 tail) s := by
  obtain ⟨o, d, h⟩ := hex2_ports c1 c2 s
  unfold HasEffect execDecMode1053
  cases o with
  | none =>
    refine ⟨s.last, s.inRefresh, d, [], Nat.zero_le _, fun m inp evs => ?_⟩
    rw [h]; simp [withPorts, modeFrame]
  | some v =>
    obtain ⟨l, fl, e, new, hl, he⟩ := classify_effect v { s with draws := d }
    refine ⟨l, fl, e, new, hl, fun m inp evs => ?_⟩
    rw [h, modeFrame, runModeByte_eq]
    exact he m inp evs

/-- A field reads the same whatever stands on the ports, and leaves only a draw. -/
theorem fieldValue_ports (r k : Bytes) (s : State) :
    ∃ v d, ∀ m inp evs, fieldValue r k (withPorts m inp evs s) = (v, { withPorts m inp evs s with draws := d }) := by
  unfold fieldValue
  cases fieldText r k with
  | none => exact ⟨absentValue, s.draws, fun _ _ _ => rfl⟩
  | some t =>
    by_cases h : inRange s.cfg.intW (decText t) = true
    · exact ⟨decText t, s.draws, fun _ _ _ => by simp [decParse, withPorts, h]⟩
    · exact ⟨(Config.openDecOverflow s.cfg.intW s.draws).toInt, s.draws + 1,
        fun _ _ _ => by simp [decParse, withPorts, h, countDraw]⟩

theorem json_effect (r : Bytes) (s : State) : HasEffect 2 (execDecJson r) s := by
  obtain ⟨v1, d1, h1⟩ := fieldValue_ports r keyTop s
  obtain ⟨v2, d2, h2⟩ := fieldValue_ports r keyState { s with draws := d1 }
  have l1 := eventIfNew_length s.cfg.sinkEn s.last (.level v1)
  refine ⟨(if accept s.cfg.jsonAccept v2 = true then
        store (if accept s.cfg.jsonAccept v1 = true then store s.last (.level v1) else s.last) (.stateRaw v2)
      else if accept s.cfg.jsonAccept v1 = true then store s.last (.level v1) else s.last), s.inRefresh, d2,
    (if accept s.cfg.jsonAccept v1 = true then eventIfNew s.cfg.sinkEn s.last (.level v1) else [])
      ++ (if accept s.cfg.jsonAccept v2 = true then eventIfNew s.cfg.sinkEn
          (if accept s.cfg.jsonAccept v1 = true then store s.last (.level v1) else s.last) (.stateRaw v2) else []),
    ?_, fun m inp evs => ?_⟩
  · rw [List.length_append]
    have l2 := fun q => eventIfNew_length s.cfg.sinkEn q (.stateRaw v2)
    have l2' := l2 (if accept s.cfg.jsonAccept v1 = true then store s.last (.level v1) else s.last)
    generalize (if accept s.cfg.jsonAccept v1 = true then store s.last (.level v1) else s.last) = q at l2'
    have e1 : (if accept s.cfg.jsonAccept v1 = true then eventIfNew s.cfg.sinkEn s.last (.level v1) else []).length ≤ 1 := by
      split
      · exact l1
      · exact Nat.zero_le _
    have e2 : (if accept s.cfg.jsonAccept v2 = true then eventIfNew s.cfg.sinkEn q (.stateRaw v2) else []).length ≤ 1 := by
      split
      · exact l2'
      · exact Nat.zero_le _
    omega
  · have h2' := h2 m inp evs
    simp only [withPorts] at h1 h2'
    simp only [execDecJson, withPorts, h1, h2', publishJson, publishIf_eq, List.append_assoc]

/-- The effect of every decoder operation is the same whatever stands on the ports. -/
theorem exec_effect {i : Instr} (hi : sourceOf i ≠ .byteIn) (s : State) : HasEffect 5 (exec i) s := by
  cases i
  case decLevel2053 c1 c2 x => exact (level_effect c1 c2 x s).mono (by omega)
  case decMode1053 c1 c2 x => exact mode_effect c1 c2 x s
  case decJson r => exact (json_effect r s).mono (by omega)
  all_goals first
    | exact absurd rfl hi
    | exact nothing_effect 5 s
    | exact classify_effect _ s

end Sys2Proof.Machine
end

