-- ==== Sys2Proof/Laws/PerInstr.lean ====
section
/-! SUPPORT. A property of every instruction as syntax, one lemma per constructor. -/

namespace Sys2Proof.Laws.EncodeLength

/-- A well-formed instruction's word has 1 to `BUF_CAP + 1` bytes, whatever the configuration
(30_encoding.md R70, R72). -/
def Statement (i : Instr) : Prop :=
  ∀ cfg, WellFormed cfg i = true → 1 ≤ (encode i).length ∧ (encode i).length ≤ cfg.bufCap + 1

theorem of_tailFits {cap n : Nat} {p tail : Bytes} (hn : p.length = n) (h : tailFits cap n tail = true) :
    1 ≤ (chLT :: (p ++ tail)).length ∧ (chLT :: (p ++ tail)).length ≤ cap + 1 := by
  simp only [tailFits, Bool.and_eq_true, decide_eq_true_eq] at h
  simp only [List.length_cons, List.length_append]
  omega

theorem of_frameFits {cap : Nat} {c1 c2 : Byte} {p tail : Bytes} (hp : p.length = 4) (h : frameFits cap c1 c2 tail = true) :
    1 ≤ (chLT :: (p ++ c1 :: c2 :: tail)).length ∧ (chLT :: (p ++ c1 :: c2 :: tail)).length ≤ cap + 1 := by
  simp only [frameFits, tailFits, Bool.and_eq_true, decide_eq_true_eq] at h
  simp only [List.length_cons, List.length_append]
  omega

theorem of_one {cap : Nat} (b : Byte) : 1 ≤ [b].length ∧ [b].length ≤ cap + 1 := ⟨Nat.le_refl 1, Nat.succ_le_succ (Nat.zero_le cap)⟩

theorem feedCr : Statement .feedCr := fun _ _ => of_one _
theorem feedLf : Statement .feedLf := fun _ _ => of_one _
theorem feedLt : Statement .feedLt := fun _ _ => of_one _
theorem feedOther (b : Byte) : Statement (.feedOther b) := fun _ _ => of_one _
theorem decLevel2053 (c1 c2 : Byte) (tail : Bytes) : Statement (.decLevel2053 c1 c2 tail) :=
  fun _ h => of_frameFits rfl h
theorem decIgn20123 (tail : Bytes) : Statement (.decIgn20123 tail) := fun _ h => of_tailFits rfl h
theorem decIgn2071 (tail : Bytes) : Statement (.decIgn2071 tail) := fun _ h => of_tailFits rfl h
theorem decIgn2010 (tail : Bytes) : Statement (.decIgn2010 tail) := fun _ h => of_tailFits rfl h
theorem decIgn30123 (tail : Bytes) : Statement (.decIgn30123 tail) := fun _ h => of_tailFits rfl h
theorem decIgn40123 (tail : Bytes) : Statement (.decIgn40123 tail) := fun _ h => of_tailFits rfl h
theorem decIgn4071 (tail : Bytes) : Statement (.decIgn4071 tail) := fun _ h => of_tailFits rfl h
theorem decIgn4010 (tail : Bytes) : Statement (.decIgn4010 tail) := fun _ h => of_tailFits rfl h
theorem decIgn4033 (tail : Bytes) : Statement (.decIgn4033 tail) := fun _ h => of_tailFits rfl h
theorem decMode1053 (c1 c2 : Byte) (tail : Bytes) : Statement (.decMode1053 c1 c2 tail) :=
  fun _ h => of_frameFits rfl h
theorem decOther (r : Bytes) : Statement (.decOther r) := by
  intro lead h
  cases r with
  | nil => simp [WellFormed, flushedFits] at h
  | cons c s =>
    simp only [WellFormed, flushedFits, Bool.and_eq_true, decide_eq_true_eq] at h
    simp only [encode, List.length_cons]
    omega
theorem decJson (r : Bytes) : Statement (.decJson r) := by
  intro lead h
  simp only [WellFormed, jsonFits, Bool.and_eq_true, decide_eq_true_eq] at h
  refine ⟨?_, h.2⟩
  cases r with
  | nil => exact absurd h.1.1 (by decide)
  | cons c s => simp [encode]
theorem mode00 : Statement .mode00 := fun _ _ => of_one _
theorem mode01 : Statement .mode01 := fun _ _ => of_one _
theorem mode04 : Statement .mode04 := fun _ _ => of_one _
theorem mode08 : Statement .mode08 := fun _ _ => of_one _
theorem mode10 : Statement .mode10 := fun _ _ => of_one _
theorem mode14 : Statement .mode14 := fun _ _ => of_one _
theorem modeOther (m : Byte) : Statement (.modeOther m) := fun _ _ => of_one _

end Sys2Proof.Laws.EncodeLength
end

