-- ==== Sys2Proof/Laws/Step.lean ====
section
/-! SUPPORT. All that a step can do (Machine/Step.lean), and a run as a step and then the rest. -/

namespace Sys2Proof.Machine

/-- All that a step can do: nothing without input, a reset, or the operation of one byte. -/
theorem step_cases {s t : State} (h : step s = .next t) :
    (s.input = [] ∧ t = s)
    ∨ (∃ rest, s.input = .rst :: rest ∧ t = assertReset { s with input := rest })
    ∨ (∃ b rest, s.input = .byte b :: rest ∧ exec (decodeByte b) { s with input := rest } = .next t) := by
  unfold step fetch at h
  cases hi : s.input with
  | nil =>
    simp only [hi, Host.Outcome.next.injEq] at h
    exact .inl ⟨rfl, h.symm⟩
  | cons a r =>
    cases a with
    | rst =>
      simp only [hi, Host.Outcome.next.injEq] at h
      exact .inr (.inl ⟨r, rfl, h.symm⟩)
    | byte b =>
      simp only [hi] at h
      exact .inr (.inr ⟨b, r, rfl, h⟩)

/-- A run of `n + 1` steps whose first step goes on. -/
theorem run_succ {n : Nat} {s t : State} (h : step s = .next t) :
    Sys2Proof.core.run (n + 1) s = Sys2Proof.core.run n t := by
  have h' : Sys2Proof.core.step s = .next t := h
  simp only [Host.Core.run]
  rw [h']

end Sys2Proof.Machine
end

