-- ==== Sys2Proof/Tests/Slice0.lean ====
section
/-! SUPPORT. Named tests of the model. Expected values come from spec/95_test_vectors.md, the examples of
the rules, and the encodings of spec/30_encoding.md, written out by hand; and, for every statement with
hypotheses, a witness that meets them together. -/

namespace Sys2Proof.Tests

open Sys2Proof Sys2Proof.Machine

set_option Elab.async false

/-- Reset under the reference configuration (92_eei_decisions.md D18). -/
def ref : State := State.resetWith referenceConfig

/-- `ref` with a buffer, a flag, and one byte on BYTE_IN. -/
def at1 (buf : Bytes) (b : Byte) : State := { ref with buf := buf, input := [.byte b] }

/-- The next state of an outcome. -/
def nextOf : Host.Outcome State Fault Refusal → Option State
  | .next t => some t
  | _ => none

/-- The events and the flag of an outcome from a state with no event yet. -/
def shows (o : Host.Outcome State Fault Refusal) : Option (List Event × Bool × Nat) :=
  (nextOf o).map fun t => (t.evOut, t.inRefresh, t.buf.length)

/-- `<2053320000` -/
def level32 : Bytes :=
  [0x3C#8, 0x32#8, 0x30#8, 0x35#8, 0x33#8, 0x33#8, 0x32#8, 0x30#8, 0x30#8, 0x30#8, 0x30#8]

/-- `<1053100000` -/
def mode10w : Bytes :=
  [0x3C#8, 0x31#8, 0x30#8, 0x35#8, 0x33#8, 0x31#8, 0x30#8, 0x30#8, 0x30#8, 0x30#8, 0x30#8]

/-- `<1053140000` -/
def mode14w : Bytes :=
  [0x3C#8, 0x31#8, 0x30#8, 0x35#8, 0x33#8, 0x31#8, 0x34#8, 0x30#8, 0x30#8, 0x30#8, 0x30#8]

/-- JSONREC("42", "3") of 30_encoding.md R80 -/
def json42 : Bytes :=
  [0x7B#8, 0x22#8, 0x74#8, 0x61#8, 0x6E#8, 0x6B#8, 0x6C#8, 0x65#8, 0x76#8, 0x65#8, 0x6C#8, 0x73#8, 0x22#8, 0x3A#8, 0x7B#8, 0x22#8, 0x74#8, 0x6F#8, 0x70#8, 0x22#8]
    ++ [0x3A#8, 0x22#8, 0x34#8, 0x32#8, 0x22#8, 0x2C#8, 0x22#8, 0x73#8, 0x74#8, 0x61#8, 0x74#8, 0x65#8, 0x22#8, 0x3A#8, 0x22#8, 0x33#8, 0x22#8, 0x7D#8, 0x7D#8]

/-! ## WellFormed refuses an ill-formed term for each check -/

theorem test_refuses_feedOther_cr :
    WellFormed referenceConfig (.feedOther 0x0D#8) = false := by decide +kernel

theorem test_refuses_feedOther_lf :
    WellFormed referenceConfig (.feedOther 0x0A#8) = false := by decide +kernel

theorem test_refuses_feedOther_lt :
    WellFormed referenceConfig (.feedOther 0x3C#8) = false := by decide +kernel

theorem test_refuses_level_short :
    WellFormed referenceConfig (.decLevel2053 0x33#8 0x32#8 [0x30#8, 0x30#8, 0x30#8]) = false := by decide +kernel

theorem test_refuses_level_delimiter_payload :
    WellFormed referenceConfig (.decLevel2053 0x3C#8 0x32#8 [0x30#8, 0x30#8, 0x30#8, 0x30#8]) = false := by decide +kernel

theorem test_refuses_level_delimiter_payload_lo :
    WellFormed referenceConfig (.decLevel2053 0x33#8 0x0A#8 [0x30#8, 0x30#8, 0x30#8, 0x30#8]) = false := by decide +kernel

theorem test_refuses_level_delimiter_tail :
    WellFormed referenceConfig (.decLevel2053 0x33#8 0x32#8 [0x30#8, 0x30#8, 0x30#8, 0x0D#8]) = false := by decide +kernel

theorem test_refuses_mode_short :
    WellFormed referenceConfig (.decMode1053 0x31#8 0x30#8 [0x30#8, 0x30#8, 0x30#8]) = false := by decide +kernel

theorem test_refuses_mode_long :
    WellFormed referenceConfig (.decMode1053 0x31#8 0x30#8 (List.replicate 494 0x78#8)) = false := by decide +kernel

theorem test_refuses_ign5_long :
    WellFormed referenceConfig (.decIgn20123 (List.replicate 495 0x78#8)) = false := by decide +kernel

theorem test_refuses_ign4_long :
    WellFormed referenceConfig (.decIgn4071 (List.replicate 496 0x78#8)) = false := by decide +kernel

theorem test_refuses_ign_delimiter :
    WellFormed referenceConfig (.decIgn2010 [0x0A#8]) = false := by decide +kernel

theorem test_refuses_other_empty :
    WellFormed referenceConfig (.decOther []) = false := by decide +kernel

theorem test_refuses_other_long :
    WellFormed referenceConfig (.decOther (List.replicate 501 0x78#8)) = false := by decide +kernel

theorem test_refuses_other_inner_lt :
    WellFormed referenceConfig (.decOther [0x3C#8, 0x39#8, 0x3C#8]) = false := by decide +kernel

theorem test_refuses_other_selects_ignore :
    WellFormed referenceConfig (.decOther [0x3C#8, 0x32#8, 0x30#8, 0x37#8, 0x31#8]) = false := by decide +kernel

theorem test_refuses_json_no_close :
    WellFormed referenceConfig (.decJson [0x7B#8, 0x22#8, 0x74#8, 0x61#8, 0x6E#8, 0x6B#8, 0x6C#8, 0x65#8, 0x76#8, 0x65#8, 0x6C#8, 0x73#8, 0x22#8, 0x7D#8]) = false := by decide +kernel

theorem test_refuses_json_two_closes :
    WellFormed referenceConfig (.decJson [0x7B#8, 0x22#8, 0x74#8, 0x61#8, 0x6E#8, 0x6B#8, 0x6C#8, 0x65#8, 0x76#8, 0x65#8, 0x6C#8, 0x73#8, 0x22#8, 0x7D#8, 0x7D#8, 0x7D#8]) = false := by decide +kernel

theorem test_refuses_json_leading_byte :
    WellFormed referenceConfig (.decJson [0x78#8, 0x7B#8, 0x22#8, 0x74#8, 0x61#8, 0x6E#8, 0x6B#8, 0x6C#8, 0x65#8, 0x76#8, 0x65#8, 0x6C#8, 0x73#8, 0x22#8, 0x7D#8, 0x7D#8]) = false := by decide +kernel

theorem test_refuses_json_inner_cr :
    WellFormed referenceConfig (.decJson [0x7B#8, 0x22#8, 0x74#8, 0x61#8, 0x6E#8, 0x6B#8, 0x6C#8, 0x65#8, 0x76#8, 0x65#8, 0x6C#8, 0x73#8, 0x22#8, 0x0D#8, 0x7D#8, 0x7D#8]) = false := by decide +kernel

theorem test_refuses_json_long :
    WellFormed referenceConfig (.decJson (jsonOpen ++ List.replicate 487 0x78#8 ++ jsonClose)) = false := by decide +kernel

theorem test_refuses_modeOther_mapped :
    WellFormed referenceConfig (.modeOther 0x10#8) = false := by decide +kernel

theorem test_accepts_longest_terms :
    WellFormed referenceConfig (.decIgn20123 (List.replicate 494 0x78#8)) = true
    ∧ WellFormed referenceConfig (.decMode1053 0x31#8 0x30#8 (List.replicate 493 0x78#8)) = true
    ∧ WellFormed referenceConfig (.decJson (jsonOpen ++ List.replicate 486 0x78#8 ++ jsonClose)) = true
    ∧ WellFormed referenceConfig (.decOther (List.replicate 500 0x78#8)) = true := by decide +kernel

/-! ## Decoding of words written out from the encodings (30_encoding.md R71, R74, R82, R90) -/

theorem test_decode_feedCr :
    decode true .byteIn [0x0D#8] = .ok (.feedCr) := by rfl

theorem test_decode_feedLf :
    decode true .byteIn [0x0A#8] = .ok (.feedLf) := by rfl

theorem test_decode_feedLt :
    decode true .byteIn [0x3C#8] = .ok (.feedLt) := by rfl

theorem test_decode_feedOther :
    decode true .byteIn [0x80#8] = .ok (.feedOther 0x80#8) := by rfl

theorem test_decode_decLevel2053 :
    decode true .flushed [0x3C#8, 0x32#8, 0x30#8, 0x35#8, 0x33#8, 0x33#8, 0x32#8, 0x30#8, 0x30#8, 0x30#8, 0x30#8]
      = .ok (.decLevel2053 0x33#8 0x32#8 [0x30#8, 0x30#8, 0x30#8, 0x30#8]) := by rfl

theorem test_encode_decLevel2053 :
    encode (.decLevel2053 0x33#8 0x32#8 [0x30#8, 0x30#8, 0x30#8, 0x30#8]) = [0x3C#8, 0x32#8, 0x30#8, 0x35#8, 0x33#8, 0x33#8, 0x32#8, 0x30#8, 0x30#8, 0x30#8, 0x30#8] := by rfl

theorem test_decode_decIgn20123 :
    decode true .flushed [0x3C#8, 0x32#8, 0x30#8, 0x31#8, 0x32#8, 0x33#8]
      = .ok (.decIgn20123 []) := by rfl

theorem test_decode_decIgn2071 :
    decode true .flushed [0x3C#8, 0x32#8, 0x30#8, 0x37#8, 0x31#8, 0x41#8, 0x42#8]
      = .ok (.decIgn2071 [0x41#8, 0x42#8]) := by rfl

theorem test_decode_decIgn2010 :
    decode true .flushed [0x3C#8, 0x32#8, 0x30#8, 0x31#8, 0x30#8, 0x30#8, 0x30#8, 0x30#8, 0x30#8, 0x30#8, 0x30#8, 0x30#8]
      = .ok (.decIgn2010 [0x30#8, 0x30#8, 0x30#8, 0x30#8, 0x30#8, 0x30#8, 0x30#8]) := by rfl

theorem test_decode_decIgn30123 :
    decode true .flushed [0x3C#8, 0x33#8, 0x30#8, 0x31#8, 0x32#8, 0x33#8]
      = .ok (.decIgn30123 []) := by rfl

theorem test_encode_decIgn30123 :
    encode (.decIgn30123 []) = [0x3C#8, 0x33#8, 0x30#8, 0x31#8, 0x32#8, 0x33#8] := by rfl

theorem test_decode_decIgn40123 :
    decode true .flushed [0x3C#8, 0x34#8, 0x30#8, 0x31#8, 0x32#8, 0x33#8, 0x30#8]
      = .ok (.decIgn40123 [0x30#8]) := by rfl

theorem test_decode_decIgn4071 :
    decode true .flushed [0x3C#8, 0x34#8, 0x30#8, 0x37#8, 0x31#8]
      = .ok (.decIgn4071 []) := by rfl

theorem test_decode_decIgn4010 :
    decode true .flushed [0x3C#8, 0x34#8, 0x30#8, 0x31#8, 0x30#8, 0x46#8, 0x46#8]
      = .ok (.decIgn4010 [0x46#8, 0x46#8]) := by rfl

theorem test_decode_decIgn4033 :
    decode true .flushed [0x3C#8, 0x34#8, 0x30#8, 0x33#8, 0x33#8, 0x31#8, 0x32#8, 0x33#8, 0x34#8, 0x35#8, 0x36#8, 0x37#8, 0x38#8, 0x39#8, 0x30#8]
      = .ok (.decIgn4033 [0x31#8, 0x32#8, 0x33#8, 0x34#8, 0x35#8, 0x36#8, 0x37#8, 0x38#8, 0x39#8, 0x30#8]) := by rfl

theorem test_decode_decMode1053 :
    decode true .flushed [0x3C#8, 0x31#8, 0x30#8, 0x35#8, 0x33#8, 0x61#8, 0x61#8, 0x30#8, 0x30#8, 0x31#8, 0x32#8]
      = .ok (.decMode1053 0x61#8 0x61#8 [0x30#8, 0x30#8, 0x31#8, 0x32#8]) := by rfl

theorem test_decode_decOther :
    decode true .flushed [0x3C#8, 0x32#8, 0x30#8, 0x35#8, 0x33#8, 0x33#8, 0x32#8, 0x30#8, 0x30#8, 0x30#8]
      = .ok (.decOther [0x3C#8, 0x32#8, 0x30#8, 0x35#8, 0x33#8, 0x33#8, 0x32#8, 0x30#8, 0x30#8, 0x30#8]) := by rfl

theorem test_decode_decOther_noLead :
    decode true .flushed [0x32#8, 0x30#8, 0x35#8, 0x33#8, 0x33#8, 0x32#8, 0x30#8, 0x30#8, 0x30#8, 0x30#8]
      = .ok (.decOther [0x32#8, 0x30#8, 0x35#8, 0x33#8, 0x33#8, 0x32#8, 0x30#8, 0x30#8, 0x30#8, 0x30#8]) := by rfl

theorem test_decode_decJson :
    decode true .inline [0x7B#8, 0x22#8, 0x74#8, 0x61#8, 0x6E#8, 0x6B#8, 0x6C#8, 0x65#8, 0x76#8, 0x65#8, 0x6C#8, 0x73#8, 0x22#8, 0x7D#8, 0x7D#8]
      = .ok (.decJson [0x7B#8, 0x22#8, 0x74#8, 0x61#8, 0x6E#8, 0x6B#8, 0x6C#8, 0x65#8, 0x76#8, 0x65#8, 0x6C#8, 0x73#8, 0x22#8, 0x7D#8, 0x7D#8]) := by rfl

theorem test_decode_mode00 :
    decode true .modeByte [0x00#8] = .ok (.mode00) := by rfl

theorem test_decode_mode01 :
    decode true .modeByte [0x01#8] = .ok (.mode01) := by rfl

theorem test_decode_mode04 :
    decode true .modeByte [0x04#8] = .ok (.mode04) := by rfl

theorem test_decode_mode08 :
    decode true .modeByte [0x08#8] = .ok (.mode08) := by rfl

theorem test_decode_mode10 :
    decode true .modeByte [0x10#8] = .ok (.mode10) := by rfl

theorem test_decode_mode14 :
    decode true .modeByte [0x14#8] = .ok (.mode14) := by rfl

theorem test_decode_modeOther :
    decode true .modeByte [0xAA#8] = .ok (.modeOther 0xAA#8) := by rfl

theorem test_encode_modeOther :
    encode (.modeOther 0xAA#8) = [0xAA#8] := by rfl

/-- 41_record_decoder.md R141 with HEX_LEAD_REQUIRED false (T4). -/
theorem test_decode_noLead_allowed :
    decode false .flushed [0x32#8, 0x30#8, 0x35#8, 0x33#8, 0x33#8, 0x32#8, 0x30#8, 0x30#8, 0x30#8, 0x30#8]
      = .ok (.decLevel2053 0x33#8 0x32#8 [0x30#8, 0x30#8, 0x30#8, 0x30#8]) := by rfl

theorem test_decode_refuses :
    decode true .byteIn [] = .error .notOneByte ∧ decode true .byteIn [0x30#8, 0x31#8] = .error .notOneByte
    ∧ decode true .flushed [] = .error .emptyRecord ∧ decode true .inline [0x7B#8] = .error .notAJsonRecord
    ∧ decode true .modeByte [] = .error .notOneByte := by refine ⟨rfl, rfl, rfl, rfl, rfl⟩

/-! ## Words of spec/opcode_table.json (log 10) -/

theorem test_table_feedCr :
    decodeTableWord 8 0x0D = some (.feedCr) := by rfl

theorem test_table_feedOther :
    decodeTableWord 8 0x7B = some (.feedOther 0x7B#8) := by rfl

theorem test_table_level :
    decodeTableWord 32 0x32303533 = some (.decLevel2053 0x30#8 0x30#8 [0x30#8, 0x30#8, 0x30#8, 0x30#8]) := by rfl

theorem test_table_ign30123 :
    decodeTableWord 40 0x3330313233 = some (.decIgn30123 [0x30#8, 0x30#8, 0x30#8, 0x30#8, 0x30#8]) := by rfl

theorem test_table_mode :
    decodeTableWord 32 0x31303533 = some (.decMode1053 0x30#8 0x30#8 [0x30#8, 0x30#8, 0x30#8, 0x30#8]) := by rfl

theorem test_table_other :
    decodeTableWord 0 0 = some (.decOther [0x3C#8, 0x30#8, 0x30#8, 0x30#8, 0x30#8, 0x30#8, 0x30#8, 0x30#8, 0x30#8, 0x30#8, 0x30#8]) := by rfl

theorem test_table_json :
    decodeTableWord 104 0x7B2274616E6B6C6576656C7322 = some (.decJson (jsonOpen ++ jsonClose)) := by rfl

theorem test_table_mode10 :
    decodeTableWord 8 0x10 = some (.mode10) := by rfl

/-- The level frame of zeros publishes 0 (41_record_decoder.md R147). -/
theorem test_placed_level_runs :
    (nextOf (step (State.reset.withFetchWord 32 0x32303533))).map (fun t => (t.evOut, t.buf))
      = some ([.pub (.level 0)], []) := by decide

/-- 41_record_decoder.md R160's example. -/
theorem test_placed_mode10_runs :
    shows (step (State.reset.withFetchWord 8 0x10))
      = some ([.pub (.modeRaw 0x10#8), .pub (.modeTxt .refresh), .pub (.statusTxt .draining), .pub (.sourceTxt .rainwater)], true, 0) := by decide

/-- T11: a record with no fields. -/
theorem test_placed_json_runs :
    shows (step (State.reset.withFetchWord 104 0x7B2274616E6B6C6576656C7322)) = some ([], false, 0) := by decide

/-- T1. -/
theorem test_placed_feedCr_runs :
    step (State.reset.withFetchWord 8 0x0D) = .next State.reset := by rfl

theorem test_placed_other_runs :
    step (State.reset.withFetchWord 0 0) = .next State.reset := by rfl

/-! ## One step of each operation -/

/-- 40_reassembler.md R110's example. -/
theorem test_feedCr_flushes :
    shows (step (at1 level32 0x0D#8)) = some ([.pub (.level 50)], false, 0) := by decide

/-- T1. -/
theorem test_feedCr_empty_noop :
    nextOf (step (at1 [] 0x0D#8)) = some ref := by decide

/-- R111's example. -/
theorem test_feedLf_flushes :
    shows (step (at1 mode10w 0x0A#8))
      = some ([.pub (.modeRaw 0x10#8), .pub (.modeTxt .refresh), .pub (.statusTxt .draining), .pub (.sourceTxt .rainwater)], true, 0) := by decide

/-- T5. -/
theorem test_feedLf_drops_500_bytes :
    shows (step (at1 (List.replicate 500 0x78#8) 0x0A#8)) = some ([], false, 0) := by decide +kernel

/-- R112's example. -/
theorem test_feedLt_flushes :
    (nextOf (step (at1 level32 0x3C#8))).map (fun t => (t.evOut, t.buf)) = some ([.pub (.level 50)], [0x3C#8]) := by decide

/-- T3. -/
theorem test_feedLt_on_lone_lt :
    (nextOf (step (at1 [0x3C#8] 0x3C#8))).map (fun t => (t.evOut, t.buf)) = some ([], [0x3C#8]) := by decide

/-- R113's example, and W6's byte 501. -/
theorem test_feedOther_appends_or_clears :
    (nextOf (step (at1 [0x3C#8, 0x32#8, 0x30#8, 0x35#8, 0x33#8, 0x33#8, 0x32#8, 0x30#8, 0x30#8, 0x30#8] 0x30#8))).map (fun t => (t.evOut, t.buf)) = some ([], level32)
    ∧ shows (step (at1 (List.replicate 500 0x78#8) 0x78#8)) = some ([], false, 0) := by decide +kernel

/-- T7. -/
theorem test_json_completes_at_501 :
    shows (step (at1 (0x3C#8 :: List.replicate 461 0x78#8 ++ json42.dropLast) 0x7D#8))
      = some ([.pub (.level 42), .pub (.stateRaw 3)], false, 0) := by decide +kernel

/-- T20. -/
theorem test_level_hex_cases :
    shows (exec (.decLevel2053 0x30#8 0x61#8 [0x30#8, 0x30#8, 0x30#8, 0x30#8]) ref) = some ([.pub (.level 10)], false, 0)
    ∧ shows (exec (.decLevel2053 0x46#8 0x66#8 [0x30#8, 0x30#8, 0x30#8, 0x30#8]) ref) = some ([.pub (.level 255)], false, 0) := by decide

/-- T27: the register is written with no sink. T23: a malformed pair is dropped under the reference relation. -/
theorem test_level_no_sink_or_no_digits :
    (nextOf (exec (.decLevel2053 0x33#8 0x33#8 [0x30#8, 0x30#8, 0x30#8, 0x30#8]) { ref with cfg := { referenceConfig with sinkEn := ⟨false, true, true, true, true, true⟩ } })).map
        (fun t => (t.evOut, t.last.level)) = some ([], some 51)
    ∧ nextOf (exec (.decLevel2053 0x5A#8 0x5A#8 [0x30#8, 0x30#8, 0x30#8, 0x30#8]) ref) = some ref := by decide

/-- R150's example, ended by CR (T22). -/
theorem test_ign20123_dropped :
    nextOf (step (at1 [0x3C#8, 0x32#8, 0x30#8, 0x31#8, 0x32#8, 0x33#8] 0x0D#8)) = some ref := by decide

/-- R151's example, ended by CR (T22). -/
theorem test_ign2071_dropped :
    nextOf (step (at1 [0x3C#8, 0x32#8, 0x30#8, 0x37#8, 0x31#8, 0x41#8, 0x42#8] 0x0D#8)) = some ref := by decide

/-- R152's example, ended by CR (T22). -/
theorem test_ign2010_dropped :
    nextOf (step (at1 [0x3C#8, 0x32#8, 0x30#8, 0x31#8, 0x30#8, 0x30#8, 0x30#8, 0x30#8, 0x30#8, 0x30#8, 0x30#8, 0x30#8] 0x0D#8)) = some ref := by decide

/-- R153's example, ended by CR (T22). -/
theorem test_ign30123_dropped :
    nextOf (step (at1 [0x3C#8, 0x33#8, 0x30#8, 0x31#8, 0x32#8, 0x33#8] 0x0D#8)) = some ref := by decide

/-- R154's example, ended by CR (T22). -/
theorem test_ign40123_dropped :
    nextOf (step (at1 [0x3C#8, 0x34#8, 0x30#8, 0x31#8, 0x32#8, 0x33#8, 0x30#8] 0x0D#8)) = some ref := by decide

/-- R155's example, ended by CR (T22). -/
theorem test_ign4071_dropped :
    nextOf (step (at1 [0x3C#8, 0x34#8, 0x30#8, 0x37#8, 0x31#8] 0x0D#8)) = some ref := by decide

/-- R156's example, ended by CR (T22). -/
theorem test_ign4010_dropped :
    nextOf (step (at1 [0x3C#8, 0x34#8, 0x30#8, 0x31#8, 0x30#8, 0x46#8, 0x46#8] 0x0D#8)) = some ref := by decide

/-- R157's example, ended by CR (T22). -/
theorem test_ign4033_dropped :
    nextOf (step (at1 [0x3C#8, 0x34#8, 0x30#8, 0x33#8, 0x33#8, 0x31#8, 0x32#8, 0x33#8, 0x34#8, 0x35#8, 0x36#8, 0x37#8, 0x38#8, 0x39#8, 0x30#8] 0x0D#8)) = some ref := by decide

/-- T24. -/
theorem test_other_dropped :
    nextOf (step (at1 [0x3C#8, 0x39#8, 0x39#8, 0x39#8, 0x39#8, 0x39#8, 0x39#8, 0x39#8, 0x39#8, 0x39#8, 0x39#8] 0x0A#8)) = some ref := by decide

/-- T21. -/
theorem test_other_short_frame :
    nextOf (step (at1 [0x3C#8, 0x32#8, 0x30#8, 0x35#8, 0x33#8, 0x33#8, 0x32#8, 0x30#8, 0x30#8, 0x30#8] 0x0A#8)) = some ref := by decide

/-- T38. -/
theorem test_mode_malformed_no_warning :
    nextOf (step (at1 [0x3C#8, 0x31#8, 0x30#8, 0x35#8, 0x33#8, 0x5A#8, 0x5A#8, 0x30#8, 0x30#8, 0x30#8, 0x30#8] 0x0A#8)) = some ref := by decide

/-- T36. -/
theorem test_mode_lowercase :
    shows (step (at1 [0x3C#8, 0x31#8, 0x30#8, 0x35#8, 0x33#8, 0x61#8, 0x61#8, 0x30#8, 0x30#8, 0x30#8, 0x30#8] 0x0A#8)) = some ([.warn 0xAA#8, .pub (.modeRaw 0xAA#8),
        .pub (.modeTxt .unknown), .pub (.statusTxt .unknown), .pub (.sourceTxt .unknown)], false, 0) := by decide

/-- `ref` after a marker frame: in a cycle, the four mode registers as W3's first row leaves them. -/
def inCycle : State :=
  { ref with inRefresh := true, last := ⟨none, some 0x10#8, none, some .refresh, some .draining, some .rainwater⟩ }

/-- W3, second frame. -/
theorem test_mode00_in_cycle :
    shows (exec (.mode00) inCycle) = some ([.pub (.modeRaw 0x00#8), .pub (.statusTxt .filling)], true, 0) := by decide

/-- T32. -/
theorem test_mode00_outside :
    shows (exec (.mode00) ref) = some ([.pub (.modeRaw 0x00#8), .pub (.modeTxt .normal), .pub (.statusTxt .filling), .pub (.sourceTxt .rainwater)], false, 0) := by decide

/-- P1, third frame, but from 0x10. -/
theorem test_mode01 :
    shows (exec (.mode01) inCycle) = some ([.pub (.modeRaw 0x01#8), .pub (.modeTxt .normal), .pub (.statusTxt .idle)], false, 0) := by decide

/-- T30. -/
theorem test_mode04 :
    shows (exec (.mode04) inCycle) = some ([.pub (.modeRaw 0x04#8), .pub (.modeTxt .normal), .pub (.statusTxt .idle), .pub (.sourceTxt .mains)], false, 0) := by decide

/-- T31. -/
theorem test_mode08 :
    shows (exec (.mode08) inCycle) = some ([.pub (.modeRaw 0x08#8), .pub (.modeTxt .holiday), .pub (.statusTxt .idle)], false, 0) := by decide

/-- R160's example. -/
theorem test_mode10 :
    shows (exec (.mode10) ref) = some ([.pub (.modeRaw 0x10#8), .pub (.modeTxt .refresh), .pub (.statusTxt .draining), .pub (.sourceTxt .rainwater)], true, 0) := by decide

/-- T34. -/
theorem test_mode10_again :
    shows (exec (.mode10) inCycle) = some ([], true, 0) := by decide

/-- W4, second frame. -/
theorem test_mode14 :
    shows (exec (.mode14) inCycle) = some ([.warn 0x14#8, .pub (.modeRaw 0x14#8), .pub (.modeTxt .unknown), .pub (.statusTxt .unknown), .pub (.sourceTxt .unknown)], true, 0) := by decide

/-- T36. -/
theorem test_modeOther :
    shows (exec (.modeOther 0xAA#8) ref) = some ([.warn 0xAA#8, .pub (.modeRaw 0xAA#8), .pub (.modeTxt .unknown), .pub (.statusTxt .unknown), .pub (.sourceTxt .unknown)], false, 0) := by decide

/-- JSONREC of two texts (30_encoding.md R80). -/
def jsonRec (t u : Bytes) : Bytes :=
  jsonOpen ++ [0x3A#8, 0x7B#8, 0x22#8, 0x74#8, 0x6F#8, 0x70#8, 0x22#8, 0x3A#8, 0x22#8] ++ t
    ++ [0x22#8, 0x2C#8, 0x22#8, 0x73#8, 0x74#8, 0x61#8, 0x74#8, 0x65#8, 0x22#8, 0x3A#8, 0x22#8] ++ u
    ++ [0x22#8, 0x7D#8, 0x7D#8]

/-- R195's example, T40, T42, T46, T43. -/
theorem test_json_texts :
    shows (exec (.decJson (jsonRec [0x34#8, 0x32#8] [0x33#8])) ref) = some ([.pub (.level 42), .pub (.stateRaw 3)], false, 0)
    ∧ shows (exec (.decJson (jsonRec [] [0x33#8])) ref) = some ([.pub (.level 0), .pub (.stateRaw 3)], false, 0)
    ∧ shows (exec (.decJson (jsonRec [0x31#8, 0x32#8, 0x61#8, 0x62#8] [0x35#8])) ref) = some ([.pub (.level 12), .pub (.stateRaw 5)], false, 0)
    ∧ shows (exec (.decJson (jsonRec [0x20#8, 0x37#8] [0x2B#8, 0x38#8])) ref) = some ([.pub (.level 7), .pub (.stateRaw 8)], false, 0)
    ∧ shows (exec (.decJson (jsonRec [0x2D#8, 0x31#8] [0x2D#8, 0x35#8])) ref) = some ([], false, 0) := by decide

/-- T47, T44, and T43 with NOT_MINUS1. -/
theorem test_json_fields :
    shows (exec (.decJson (jsonOpen ++ [0x3A#8, 0x7B#8, 0x22#8, 0x54#8, 0x4F#8, 0x50#8, 0x22#8, 0x3A#8, 0x22#8, 0x35#8, 0x22#8, 0x2C#8]
        ++ [0x22#8, 0x73#8, 0x74#8, 0x61#8, 0x74#8, 0x65#8, 0x22#8, 0x3A#8, 0x22#8, 0x36#8, 0x22#8, 0x7D#8, 0x7D#8])) ref) = some ([.pub (.stateRaw 6)], false, 0)
    ∧ shows (exec (.decJson (jsonOpen ++ [0x3A#8, 0x7B#8, 0x22#8, 0x74#8, 0x6F#8, 0x70#8, 0x22#8, 0x3A#8, 0x22#8, 0x34#8, 0x32#8, 0x7D#8, 0x7D#8])) ref) = some ([], false, 0)
    ∧ shows (exec (.decJson (jsonRec [0x2D#8, 0x31#8] [0x2D#8, 0x35#8])) { ref with cfg := { referenceConfig with jsonAccept := .notMinus1 } })
        = some ([.pub (.stateRaw (-5))], false, 0) := by decide

/-- 70_reset_and_hazards.md R250. -/
theorem test_reset_clears :
    step { inCycle with buf := level32, input := [.rst] } = .next ref := by rfl
/-! ## Witnesses: for each statement with hypotheses, a state and operands that meet them together -/

/-- A table that meets R90 to R92 with one more mapped code, 0x20, that is no marker (30_encoding.md R94). -/
def widerTable : List ModeRow := referenceTable ++ [⟨0x20#8, .holiday, .filling, .mains, false⟩]

/-- `ref` under a relation with one answer for the pair `Z0`, two for `ZZ` and all for every other pair
(41_record_decoder.md R145). -/
def mixedPairs : State :=
  { ref with cfg := { referenceConfig with
      hex2Relation := ⟨[⟨0x5A#8, 0x30#8, .these (some 0x07#8) []⟩, ⟨0x5A#8, 0x5A#8, .these none [some 0x00#8]⟩], .any⟩ } }

/-- `ref` with BUF_CAP 4 and INT_W 9, other values of the parameters of 00_scope.md R8. -/
def narrow : State := { ref with cfg := { referenceConfig with bufCap := 4, intW := 9 } }

/-- A pair with a single answer other than IGNORE publishes it. -/
theorem test_relation_row :
    shows (exec (.decLevel2053 0x5A#8 0x30#8 []) mixedPairs) = some ([.pub (.level 7)], false, 0) := by decide

/-- Under BUF_CAP 4 the fifth byte clears the buffer and the fourth does not (40_reassembler.md R117). -/
theorem test_buf_cap_parameter :
    shows (exec (.feedOther 0x78#8) { narrow with buf := [0x78#8, 0x78#8, 0x78#8] }) = some ([], false, 4)
    ∧ shows (exec (.feedOther 0x78#8) { narrow with buf := [0x78#8, 0x78#8, 0x78#8, 0x78#8] }) = some ([], false, 0) := by decide

/-- Under INT_W 9 the range of 42_json_decoder.md R192 is -256 to 255, and a payload byte still fits. -/
theorem test_int_w_parameter :
    inRange 9 255 = true ∧ inRange 9 256 = false ∧ inRange 9 (-256) = true ∧ inRange 9 (-257) = false
    ∧ inRange 32 2147483647 = true ∧ inRange 32 2147483648 = false ∧ zextInt 9 0xFF#8 = 255 ∧ zextInt 32 0xFF#8 = 255 := by decide

/-- `ref` without HEX_LEAD_REQUIRED. -/
def noLead : State := { ref with cfg := { referenceConfig with hexLeadRequired := false } }

/-- RST is at the head of the inputs of a state in a cycle, with a pending frame. -/
theorem witness_ResetLoadsTheResetValues :
    ({ inCycle with buf := level32, input := [.rst, .byte 0x0D#8] } : State).input = .rst :: [.byte 0x0D#8] := by rfl

theorem witness_StepRunsTheDecodedByte : (at1 level32 0x0D#8).input = .byte 0x0D#8 :: [] := by rfl

theorem witness_ByteClassMap_neighbours :
    ∀ b ∈ [0x00#8, 0x09#8, 0x0B#8, 0x0C#8, 0x0E#8, 0x3B#8, 0x3D#8, 0xFF#8], b ≠ 0x0D#8 ∧ b ≠ 0x0A#8 ∧ b ≠ 0x3C#8 := by decide

/-- A stream cut into chunks of three lengths, an empty one among them. -/
theorem witness_IncrementalFeedEquivalence :
    ref.input = [] ∧ [level32, [], [0x0D#8, 0x0A#8]].flatten = level32 ++ [0x0D#8, 0x0A#8] := by decide

theorem witness_IdleStepKeepsTheState : inCycle.input = [] := by rfl

theorem witness_FeedCrFlushesOneRecord : ref.buf = [] ∧ (at1 [0x3C#8] 0x0D#8).buf ≠ [] := by decide

theorem witness_FeedLfFlushesOneRecord : ref.buf = [] ∧ (at1 [0x78#8] 0x0A#8).buf ≠ [] := by decide

theorem witness_FeedLtFlushesAndStartsAFrame : ref.buf = [] ∧ (at1 [0x3C#8] 0x3C#8).buf ≠ [] := by decide

/-- Both arms, and both sides of the size limit. -/
theorem witness_FeedOtherAppendsThenChecks :
    jsonBounds ((at1 json42.dropLast 0x7D#8).buf ++ [0x7D#8]) = some (0, 37)
    ∧ jsonBounds (List.replicate 499 0x78#8 ++ [0x78#8]) = none ∧ jsonBounds (List.replicate 500 0x78#8 ++ [0x78#8]) = none := by
  decide +kernel

theorem witness_JsonCheckBoundsTheFirstMarkers :
    jsonBounds (0x78#8 :: jsonOpen ++ jsonClose) = some (1, 14) ∧ jsonBounds (jsonClose ++ jsonOpen ++ [0x7D#8]) = none := by decide

theorem witness_CompletedJsonRecordEndsTheBuffer :
    jsonBounds json42.dropLast = none ∧ jsonBounds (json42.dropLast ++ [0x7D#8]) = some (0, 37) := by decide

/-- A buffer at its limit of 500 bytes is legal, and a step answers a next state from it. -/
theorem witness_StepKeepsTheBufferInvariants :
    1 ≤ ref.cfg.bufCap ∧ BufInvariant ref.cfg.bufCap (at1 (0x3C#8 :: List.replicate 499 0x78#8) 0x0D#8).buf
      ∧ (nextOf (step (at1 (0x3C#8 :: List.replicate 499 0x78#8) 0x0D#8))).map (fun t => t.buf) = some [] :=
  ⟨by decide, (wf_iff _ _).mp (by decide +kernel), by decide +kernel⟩

theorem witness_PhaseTransitionTable_boundaries :
    (∃ t, exec .feedCr (at1 level32 0x0D#8) = .next t ∧ t.phase = .idle) ∧ (∃ t, exec .feedLf ref = .next t ∧ t.phase = .idle)
    ∧ ∃ t, exec .feedLt ref = .next t ∧ t.phase = .accHex :=
  ⟨⟨_, rfl, rfl⟩, ⟨_, rfl, rfl⟩, ⟨_, rfl, rfl⟩⟩

theorem witness_PhaseTransitionTable_other :
    1 ≤ ref.cfg.bufCap
    ∧ (classOf 0x78#8 = .other ∧ ref.phase = .idle ∧ (nextOf (exec (.feedOther 0x78#8) ref)).map State.phase = some .accOther)
    ∧ (classOf 0x32#8 = .other ∧ (at1 [0x3C#8] 0x32#8).phase = .accHex
        ∧ (nextOf (exec (.feedOther 0x32#8) (at1 [0x3C#8] 0x32#8))).map State.phase = some .accHex)
    ∧ (classOf 0x7D#8 = .other ∧ (at1 json42.dropLast 0x7D#8).phase = .accOther
        ∧ (nextOf (exec (.feedOther 0x7D#8) (at1 json42.dropLast 0x7D#8))).map State.phase = some .idle) := by decide +kernel

theorem witness_HexDigitValues_bounds :
    [0x30#8, 0x39#8, 0x41#8, 0x46#8, 0x61#8, 0x66#8].map hv = [some 0, some 9, some 10, some 15, some 10, some 15]
    ∧ [0x2F#8, 0x3A#8, 0x40#8, 0x47#8, 0x60#8, 0x67#8].map hv = [none, none, none, none, none, none] := by decide

theorem witness_LevelFramePublishesItsPayload :
    hv 0x33#8 = some 3 ∧ hv 0x32#8 = some 2 ∧ hv 0x66#8 = some 15 ∧ hv 0x30#8 = some 0 := by decide

theorem witness_MalformedLevelPayload :
    (hv 0x5A#8 = none ∨ hv 0x30#8 = none) ∧ hex2Answers ref.cfg.hex2Relation 0x5A#8 0x30#8 = .these none []
    ∧ hex2Answers mixedPairs.cfg.hex2Relation 0x5A#8 0x30#8 = .these (some 0x07#8) []
    ∧ hex2Answers mixedPairs.cfg.hex2Relation 0x5A#8 0x5A#8 = .these none [some 0x00#8]
    ∧ hex2Answers mixedPairs.cfg.hex2Relation 0x31#8 0x5A#8 = .any := by decide

theorem witness_RepeatedLevelFrameIsSilent :
    hv 0x33#8 ≠ none ∧ hv 0x32#8 ≠ none ∧ ∃ t, exec (.decLevel2053 0x33#8 0x32#8 []) ref = .next t ∧ t ≠ ref :=
  ⟨by decide, by decide, _, rfl, by decide⟩

theorem witness_FlushedHeartbeatOnlyClearsTheBuffer :
    pre4033 ∈ [pre20123, pre2071, pre2010, pre30123, pre40123, pre4071, pre4010, pre4033]
    ∧ (at1 (0x3C#8 :: (pre4033 ++ [0x31#8])) 0x0D#8).buf = 0x3C#8 :: (pre4033 ++ [0x31#8]) := by decide

/-- A record of no known prefix, a short frame, the lone `<`, and a record without its `<`. -/
theorem witness_OtherRecordsHaveNoEffect :
    (∀ x ∈ [[], List.replicate 10 0x39#8, pre1053 ++ List.replicate 5 0x30#8],
      (∀ p ∈ [pre20123, pre2071, pre2010, pre30123, pre40123, pre4071, pre4010, pre4033], startsWith x p = false)
      ∧ ((startsWith x pre2053 = true ∨ startsWith x pre1053 = true) → x.length < 10))
    ∧ (0x32#8 : Byte) ≠ 0x3C#8 := by decide

theorem witness_RecordWithoutLeadIsDropped :
    (at1 level32.tail 0x0A#8).cfg.hexLeadRequired = true ∧ (at1 level32.tail 0x0A#8).buf = 0x32#8 :: level32.tail.tail
    ∧ (0x32#8 : Byte) ≠ 0x3C#8 := by decide

/-- T4 with HEX_LEAD_REQUIRED false publishes 50. -/
theorem witness_RecordWithoutLeadRunsWhenAllowed :
    noLead.cfg.hexLeadRequired = false ∧ (0x32#8 : Byte) ≠ 0x3C#8
    ∧ shows (exec .feedCr { noLead with buf := 0x32#8 :: level32.tail.tail }) = some ([.pub (.level 50)], false, 0) := by decide

/-- A stripped length of 9, the longest that is short, behind each prefix. -/
theorem witness_ShortFrameIsDropped :
    (pre2053 ++ List.replicate 5 0x30#8).length < 10
    ∧ (at1 (0x3C#8 :: (pre2053 ++ List.replicate 5 0x30#8)) 0x0D#8).buf = 0x3C#8 :: (pre2053 ++ List.replicate 5 0x30#8)
    ∧ (at1 (0x3C#8 :: (pre1053 ++ List.replicate 5 0x30#8)) 0x0D#8).buf = 0x3C#8 :: (pre1053 ++ List.replicate 5 0x30#8) := by decide

/-- Two tails of the least length and of another one. -/
theorem witness_ChecksumIsNeverRead :
    4 ≤ (List.replicate 4 0x30#8).length ∧ 4 ≤ (List.replicate 7 0x46#8).length
    ∧ shows (exec .feedCr { ref with buf := 0x3C#8 :: (pre2053 ++ 0x33#8 :: 0x32#8 :: List.replicate 4 0x30#8) })
        = some ([.pub (.level 50)], false, 0) := by decide

theorem witness_HexPatternsExcludeEachOther :
    pre2010 ∈ [pre2053, pre20123, pre2071, pre2010, pre30123, pre40123, pre4071, pre4010, pre4033, pre1053]
    ∧ startsWith (pre2010 ++ [0x31#8]) pre2010 = true := by decide

theorem witness_LookupFindsTheFirstRow :
    lookup (⟨0x20#8, .normal, .idle, .mains, true⟩ :: widerTable) 0x20#8 = some ⟨0x20#8, .normal, .idle, .mains, true⟩
    ∧ lookup widerTable 0x14#8 = none := by decide

theorem witness_ModeFrameRunsItsModeCode : hv 0x31#8 = some 1 ∧ hv 0x30#8 = some 0 := by decide

theorem witness_MalformedModePayload :
    (hv 0x31#8 = none ∨ hv 0x5A#8 = none) ∧ hex2Answers ref.cfg.hex2Relation 0x31#8 0x5A#8 = .these none []
    ∧ hex2Answers mixedPairs.cfg.hex2Relation 0x31#8 0x5A#8 = .any := by decide

/-- A legal table with a row for every clause: a marker, the idle codes, 0x00, another mapped code. -/
theorem witness_RefreshCycleTable :
    tableOk widerTable = true
    ∧ (lookup widerTable 0x10#8).map ModeRow.isMarker = some true
    ∧ (lookup widerTable 0x01#8).isSome = true ∧ (lookup widerTable 0x04#8).isSome = true ∧ (lookup widerTable 0x08#8).isSome = true
    ∧ (lookup widerTable 0x20#8).map ModeRow.isMarker = some false ∧ lookup widerTable 0x14#8 = none := by decide

/-- Each of these mode bytes answers a next state under that table, in a cycle. -/
theorem witness_RefreshCycleTable_runs :
    ∀ m ∈ [0x00#8, 0x01#8, 0x04#8, 0x08#8, 0x10#8, 0x14#8, 0x20#8],
      (nextOf (exec (decodeMode m) { inCycle with cfg := { referenceConfig with modeTable := widerTable } })).isSome = true := by decide

theorem witness_PinnedCodesClassify : tableOk ref.cfg.modeTable = true ∧ tableOk widerTable = true := by decide

theorem witness_RepeatedModeByteOnlyWarns : ∃ t, exec (decodeMode 0x14#8) ref = .next t ∧ t ≠ ref := ⟨_, rfl, by decide⟩

/-- The flag rises at 0x10 outside a cycle and falls at 0x04 inside one. -/
theorem witness_FlagMovesOnlyWithAModeByte :
    (∃ t, exec .mode10 ref = .next t ∧ ref.inRefresh = false ∧ t.inRefresh = true)
    ∧ ∃ t, exec .mode04 inCycle = .next t ∧ inCycle.inRefresh = true ∧ t.inRefresh = false :=
  ⟨⟨_, rfl, rfl, rfl⟩, ⟨_, rfl, rfl, rfl⟩⟩

theorem fieldText_json42 : fieldText json42 keyTop = some [0x34#8, 0x32#8] ∧ fieldText json42 keyState = some [0x33#8] := by decide

theorem witness_FirstValuesAreAlwaysPublished :
    ref.last = ⟨none, none, none, none, none, none⟩ ∧ ref.cfg.sinkEn = ⟨true, true, true, true, true, true⟩
    ∧ FieldReads ref.cfg.intW json42 keyTop 42 0 ∧ FieldReads ref.cfg.intW json42 keyState 3 0
    ∧ accept ref.cfg.jsonAccept 42 = true ∧ accept ref.cfg.jsonAccept 3 = true := by
  refine ⟨rfl, rfl, ?_, ?_, by decide, by decide⟩
  · unfold FieldReads; rw [fieldText_json42.1]; decide
  · unfold FieldReads; rw [fieldText_json42.2]; decide

/-- A key present and a key absent. -/
theorem witness_FieldTextIsTheFirstQuotedValue :
    fieldText json42 keyTop = some [0x34#8, 0x32#8] ∧ fieldText (jsonOpen ++ jsonClose) keyTop = none := by decide

/-- ` -19ab` cut as the statement cuts it, and what it reads as. -/
theorem witness_DecimalPrefixParse_signed :
    (∀ c ∈ [0x20#8, 0x0C#8], c = 0x20#8 ∨ c = 0x09#8 ∨ c = 0x0B#8 ∨ c = 0x0C#8)
    ∧ ([0x2D#8] = [] ∨ [0x2D#8] = [0x2B#8] ∨ [0x2D#8] = [0x2D#8])
    ∧ (∀ c ∈ [0x31#8, 0x39#8], 0x30 ≤ c.toNat ∧ c.toNat ≤ 0x39)
    ∧ (∀ c, [0x61#8, 0x62#8].head? = some c → ¬ (0x30 ≤ c.toNat ∧ c.toNat ≤ 0x39)
      ∧ ([0x2D#8] = [] → [0x31#8, 0x39#8] = [] → c ≠ 0x20#8 ∧ c ≠ 0x09#8 ∧ c ≠ 0x0B#8 ∧ c ≠ 0x0C#8 ∧ c ≠ 0x2B#8 ∧ c ≠ 0x2D#8))
    ∧ decText ([0x20#8, 0x0C#8] ++ [0x2D#8] ++ [0x31#8, 0x39#8] ++ [0x61#8, 0x62#8]) = -19 := by
  refine ⟨by decide, by decide, by decide, fun c hc => ?_, by decide⟩
  cases hc
  decide

/-- `abc`: no sign and no digit; it reads as 0. -/
theorem witness_DecimalPrefixParse_no_digits :
    (∀ c, [0x61#8, 0x62#8, 0x63#8].head? = some c → ¬ (0x30 ≤ c.toNat ∧ c.toNat ≤ 0x39)
      ∧ (([] : Bytes) = [] → ([] : Bytes) = [] → c ≠ 0x20#8 ∧ c ≠ 0x09#8 ∧ c ≠ 0x0B#8 ∧ c ≠ 0x0C#8 ∧ c ≠ 0x2B#8 ∧ c ≠ 0x2D#8))
    ∧ decText ([] ++ [] ++ [] ++ [0x61#8, 0x62#8, 0x63#8]) = 0 ∧ decText [] = 0 := by
  refine ⟨fun c hc => ?_, by decide, by decide⟩
  cases hc
  decide

theorem witness_AcceptRule :
    absentValue = -1 ∧ fieldText (jsonOpen ++ jsonClose) keyTop = none ∧ accept .nonneg 0 = true ∧ accept .notMinus1 (-2) = true := by decide

theorem witness_JsonRecordPublishesItsFields :
    FieldReads 32 json42 keyTop 42 0 ∧ FieldReads 32 (jsonOpen ++ jsonClose) keyState absentValue 0
    ∧ FieldReads 32 (jsonRec (List.replicate 11 0x39#8) [0x31#8]) keyTop 7 1 := by
  have h0 : fieldText (jsonOpen ++ jsonClose) keyState = none := by decide
  have h1 : fieldText (jsonRec (List.replicate 11 0x39#8) [0x31#8]) keyTop = some (List.replicate 11 0x39#8) := by decide
  refine ⟨?_, ?_, ?_⟩
  · unfold FieldReads; rw [fieldText_json42.1]; decide
  · unfold FieldReads; rw [h0]; decide
  · unfold FieldReads; rw [h1]; decide

/-- T45's first record, then one whose `top` is the same level. -/
theorem witness_LevelIsSharedBetweenPaths :
    9 ≤ ref.cfg.intW ∧ hv 0x33#8 = some 3 ∧ hv 0x32#8 = some 2 ∧ fieldText (jsonRec [0x35#8, 0x30#8] [0x31#8]) keyTop = some [0x35#8, 0x30#8]
    ∧ decText [0x35#8, 0x30#8] = 16 * 3 + 2
    ∧ ∃ t u, exec (.decLevel2053 0x33#8 0x32#8 []) ref = .next t ∧ exec (.decJson (jsonRec [0x35#8, 0x30#8] [0x31#8])) t = .next u :=
  ⟨by decide, by decide, by decide, by decide, by decide, _, _, rfl, rfl⟩

theorem witness_PublishedIntegersAreNonnegative :
    9 ≤ ref.cfg.intW ∧ ref.cfg.jsonAccept = .nonneg ∧ ∃ t, step (at1 level32 0x0D#8) = .next t ∧ newEvents (at1 level32 0x0D#8) t = [.pub (.level 50)] :=
  ⟨by decide, rfl, _, rfl, by decide⟩

/-- The bound of five is met, and so are the bounds of one and two. -/
theorem witness_EventsPerStepAreBounded :
    (∃ t, step (at1 mode14w 0x0A#8) = .next t ∧ (newEvents (at1 mode14w 0x0A#8) t).length = 5)
    ∧ (∃ t, exec (.decLevel2053 0x33#8 0x32#8 []) ref = .next t ∧ (newEvents ref t).length = 1)
    ∧ (∃ t, exec (.decJson json42) ref = .next t ∧ (newEvents ref t).length = 2)
    ∧ ∃ t, exec (.decMode1053 0x31#8 0x34#8 []) ref = .next t ∧ (newEvents ref t).length = 5 :=
  ⟨⟨_, rfl, by decide⟩, ⟨_, rfl, by decide⟩, ⟨_, rfl, by decide⟩, ⟨_, rfl, by decide⟩⟩

theorem witness_DecoderOperationsWriteOnlyTheirRegisters :
    sourceOf (.decMode1053 0x31#8 0x30#8 []) ≠ .byteIn ∧ sourceOf (.decLevel2053 0x33#8 0x32#8 []) ≠ .byteIn
    ∧ (∃ t, exec (.decMode1053 0x31#8 0x30#8 []) ref = .next t) ∧ ∃ t, exec (.decLevel2053 0x33#8 0x32#8 []) ref = .next t :=
  ⟨by decide, by decide, ⟨_, rfl⟩, ⟨_, rfl⟩⟩

theorem witness_ConfigurationIsConstant : ∃ t, step (at1 mode10w 0x0A#8) = .next t ∧ t ≠ at1 mode10w 0x0A#8 := ⟨_, rfl, by decide⟩

theorem witness_StepKeepsTheRegisterInvariant :
    (at1 mode10w 0x0A#8).input.head? ≠ some .rst ∧ RegsTrack (at1 mode10w 0x0A#8)
    ∧ ∃ t, step (at1 mode10w 0x0A#8) = .next t ∧ t.last.modeRaw = some 0x10#8 := by
  refine ⟨by decide, fun c _ => ?_, _, rfl, rfl⟩
  cases c <;> rfl

/-- The two ends of the range of 32 bits stand in the integer registers, and a step is taken from there. -/
theorem witness_StepKeepsTheIntegerWidth :
    IntegersFit { at1 level32 0x0D#8 with last := ⟨some (-2147483648), none, some 2147483647, none, none, none⟩ }
    ∧ ∃ t, step { at1 level32 0x0D#8 with last := ⟨some (-2147483648), none, some 2147483647, none, none, none⟩ } = .next t
        ∧ t.last.level = some 50 := by
  refine ⟨⟨⟨fun v hv => ?_, fun v hv => ?_⟩, ⟨fun v hv => ?_, fun v hv => ?_⟩⟩, _, rfl, by decide⟩ <;> cases hv <;> decide

/-- An INIT_LAST that is no NONE: it fits at the least width that holds it. -/
theorem witness_ResetHasTheIntegerWidth : RegsFit 9 ⟨some 255, none, some (-256), none, none, none⟩ := by
  refine ⟨fun v hv => ?_, fun v hv => ?_⟩ <;> cases hv <;> decide

theorem witness_WarningExactlyWhenUnmapped :
    Condition.unmappedMode ∈ raised .mode14 ref ∧ Condition.unmappedMode ∉ raised .mode10 ref ∧ ∃ t, exec .mode14 ref = .next t :=
  ⟨by decide, by decide, _, rfl⟩

theorem witness_ConditionsExcludeEachOther :
    raised (.feedOther 0x78#8) (at1 (List.replicate 500 0x78#8) 0x78#8) = [.overflow]
    ∧ raised .feedCr (at1 (0x3C#8 :: List.replicate 3 0x39#8) 0x0D#8) = [.unrecognised]
    ∧ raised .feedCr (at1 (0x3C#8 :: pre2071) 0x0D#8) = [.ignoredHeartbeat]
    ∧ raised .feedLf (at1 mode14w 0x0A#8) = [.unmappedMode]
    ∧ raised .feedLt (at1 (0x3C#8 :: pre1053) 0x3C#8) = [.shortFrame]
    ∧ raised .feedLt (at1 pre2053 0x3C#8) = [.noLead] := by decide +kernel

theorem witness_OperationsIgnoreThePorts : ∃ t, exec .feedLf (at1 mode10w 0x0A#8) = .next t ∧ newEvents (at1 mode10w 0x0A#8) t ≠ [] :=
  ⟨_, rfl, by decide⟩

/-- A well-formed term of each of the forms with operands, at the least length or the pinned value. -/
theorem witness_DecodeEncodeRoundTrip :
    ∀ i ∈ [Instr.feedOther 0x00#8, .decLevel2053 0x5A#8 0x66#8 (List.replicate 4 0x7D#8), .decIgn20123 [], .decIgn2071 [],
        .decMode1053 0x31#8 0x30#8 (List.replicate 4 0x30#8), .decOther [0x3C#8], .decOther [0x32#8],
        .decJson (jsonOpen ++ jsonClose), .modeOther 0x15#8],
      WellFormed referenceConfig i = true := by decide +kernel

theorem witness_EncodeDecodeRoundTrip :
    decode true .flushed level32 = .ok (.decLevel2053 0x33#8 0x32#8 (List.replicate 4 0x30#8))
    ∧ decode true .inline json42 = .ok (.decJson json42) := ⟨rfl, rfl⟩

end Sys2Proof.Tests
end

section
/-! PROOF. What a decoder operation leaves, and every operation as buffer updates around at most one
decoder operation. -/

namespace Sys2Proof.Machine

/-- The same state after more open values have been drawn. -/
def withDraws (d : Nat) (s : State) : State := { s with draws := d }

@[simp] theorem withDraws_buf (d : Nat) (s : State) : (withDraws d s).buf = s.buf := rfl
@[simp] theorem withDraws_last (d : Nat) (s : State) : (withDraws d s).last = s.last := rfl
@[simp] theorem withDraws_inRefresh (d : Nat) (s : State) : (withDraws d s).inRefresh = s.inRefresh := rfl
@[simp] theorem withDraws_cfg (d : Nat) (s : State) : (withDraws d s).cfg = s.cfg := rfl
@[simp] theorem withDraws_input (d : Nat) (s : State) : (withDraws d s).input = s.input := rfl
@[simp] theorem withDraws_evOut (d : Nat) (s : State) : (withDraws d s).evOut = s.evOut := rfl

/-- The same state with another pending buffer. -/
def withBuf (m : Memory) (s : State) : State := { s with buf := m }

@[simp] theorem withBuf_buf (m : Memory) (s : State) : (withBuf m s).buf = m := rfl
@[simp] theorem withBuf_last (m : Memory) (s : State) : (withBuf m s).last = s.last := rfl
@[simp] theorem withBuf_inRefresh (m : Memory) (s : State) : (withBuf m s).inRefresh = s.inRefresh := rfl
@[simp] theorem withBuf_cfg (m : Memory) (s : State) : (withBuf m s).cfg = s.cfg := rfl
@[simp] theorem withBuf_evOut (m : Memory) (s : State) : (withBuf m s).evOut = s.evOut := rfl

theorem hex2_withDraws (c1 c2 : Byte) (s : State) : ∃ d, (hex2 c1 c2 s).2 = withDraws d s := by
  rcases hex2_state c1 c2 s with h | h
  · exact ⟨s.draws, h⟩
  · exact ⟨s.draws + 1, h⟩

theorem fieldValue_withDraws (r k : Bytes) (s : State) : ∃ d, (fieldValue r k s).2 = withDraws d s := by
  rcases fieldValue_state r k s with h | h
  · exact ⟨s.draws, h⟩
  · exact ⟨s.draws + 1, h⟩

/-- What a record or mode-code operation can leave of `s` (41_record_decoder.md R147 to R160,
42_json_decoder.md R195): nothing but draws, one level publish, a classification, or the publishes of a
JSON record. -/
inductive DecoderResult (s : State) : Instr → State → Prop where
  /-- the record is dropped, or its payload pair is IGNORE -/
  | dropped (i : Instr) (d : Nat) : DecoderResult s i (withDraws d s)
  /-- a level frame -/
  | level (c1 c2 : Byte) (tail : Bytes) (v : IntW) (d : Nat) :
      DecoderResult s (.decLevel2053 c1 c2 tail) (publish (.level v) (withDraws d s))
  /-- a mode frame -/
  | modeFrame (c1 c2 : Byte) (tail : Bytes) (m : Byte) (d : Nat) :
      DecoderResult s (.decMode1053 c1 c2 tail) (classify m (withDraws d s))
  /-- a mode code -/
  | modeCode (i : Instr) (m : Byte) (hi : sourceOf i = .modeByte) : DecoderResult s i (classify m s)
  /-- a JSON record -/
  | json (r : Bytes) (top st : IntW) (d : Nat) : DecoderResult s (.decJson r) (publishJson top st (withDraws d s))

theorem execDecLevel2053_result {c1 c2 : Byte} {tail : Bytes} {s t : State}
    (h : execDecLevel2053 c1 c2 tail s = .next t) : DecoderResult s (.decLevel2053 c1 c2 tail) t := by
  cases h
  obtain ⟨d, hd⟩ := hex2_withDraws c1 c2 s
  cases hx : hex2 c1 c2 s with
  | mk o u =>
    rw [hx] at hd
    subst hd
    cases o with
    | none => exact .dropped _ d
    | some v => exact .level c1 c2 tail _ d

theorem execDecMode1053_result {c1 c2 : Byte} {tail : Bytes} {s t : State}
    (h : execDecMode1053 c1 c2 tail s = .next t) : DecoderResult s (.decMode1053 c1 c2 tail) t := by
  unfold execDecMode1053 at h
  obtain ⟨d, hd⟩ := hex2_withDraws c1 c2 s
  cases hx : hex2 c1 c2 s with
  | mk o u =>
    rw [hx] at hd h
    subst hd
    cases o with
    | none => cases h; exact .dropped _ d
    | some m =>
      rw [modeFrame, runModeByte_eq] at h
      cases h
      exact .modeFrame c1 c2 tail m d

theorem execDecJson_result {r : Bytes} {s t : State} (h : execDecJson r s = .next t) :
    DecoderResult s (.decJson r) t := by
  cases h
  obtain ⟨d1, h1⟩ := fieldValue_withDraws r keyTop s
  obtain ⟨d2, h2⟩ := fieldValue_withDraws r keyState (fieldValue r keyTop s).2
  have h2 : (fieldValue r keyState (fieldValue r keyTop s).2).2 = withDraws d2 s := by rw [h2, h1]; rfl
  rw [h2]
  exact .json r _ _ d2

/-- All that a record or mode-code operation can do. -/
theorem exec_decoder_result {i : Instr} (hi : sourceOf i ≠ .byteIn) {s t : State} (h : exec i s = .next t) :
    DecoderResult s i t := by
  cases i
  case decLevel2053 c1 c2 tail => exact execDecLevel2053_result h
  case decMode1053 c1 c2 tail => exact execDecMode1053_result h
  case decJson r => exact execDecJson_result h
  case feedCr | feedLf | feedLt | feedOther => exact absurd rfl hi
  case mode00 | mode01 | mode04 | mode08 | mode10 | mode14 | modeOther => cases h; exact .modeCode _ _ rfl
  all_goals cases h; exact .dropped _ s.draws

/-- Every operation writes the buffer around at most one record or mode-code operation (10_state.md R29,
40_reassembler.md R119). -/
theorem exec_around_decoder {i : Instr} {s t : State} (h : exec i s = .next t) :
    (∃ m, t = withBuf m s)
    ∨ ∃ j m m' u, sourceOf j ≠ .byteIn ∧ exec j (withBuf m s) = .next u ∧ t = withBuf m' u := by
  by_cases hi : sourceOf i = .byteIn
  · cases i
    case feedCr | feedLf =>
      rcases flushBoundary_cases h with ⟨-, rfl⟩ | ⟨-, u, hu, rfl⟩
      · exact .inl ⟨t.buf, rfl⟩
      · exact .inr ⟨_, s.buf, [], u, decodeFlushed_not_byteIn _ _, hu, rfl⟩
    case feedLt =>
      rcases execFeedLt_cases h with ⟨-, rfl⟩ | ⟨-, u, hu, rfl⟩
      · exact .inl ⟨[chLT], rfl⟩
      · exact .inr ⟨_, s.buf, [chLT], u, decodeFlushed_not_byteIn _ _, hu, rfl⟩
    case feedOther b =>
      rcases execFeedOther_cases h with ⟨i, j, u, -, hu, rfl⟩ | ⟨-, -, rfl⟩ | ⟨-, -, rfl⟩
      · exact .inr ⟨.decJson _, s.buf ++ [b], [], u, nofun, hu, rfl⟩
      · exact .inl ⟨[], rfl⟩
      · exact .inl ⟨s.buf ++ [b], rfl⟩
    all_goals cases hi
  · exact .inr ⟨i, s.buf, t.buf, t, hi, h, rfl⟩

end Sys2Proof.Machine
end

section
/-! PROOF. The register invariant (spec 10_state.md R27): the last publish on a channel as the list of
events grows, the publish filter, the step. -/

namespace Sys2Proof.Machine

theorem lastOn_pub_cons (c : Channel) (p : Pub) (es : List Event) :
    lastOn c (.pub p :: es) = (lastOn c es).or (if p.channel = c then some p else none) := by
  simp only [lastOn]
  cases lastOn c es <;> rfl

theorem lastOn_append (c : Channel) (xs ys : List Event) :
    lastOn c (xs ++ ys) = (lastOn c ys).or (lastOn c xs) := by
  induction xs with
  | nil => exact (Option.or_none).symm
  | cons e xs ih =>
    cases e with
    | warn m => exact ih
    | pub p => rw [List.cons_append, lastOn_pub_cons, lastOn_pub_cons, ih, Option.or_assoc]

theorem lastOn_eventIfNew_other {c : Channel} {p : Pub} (hc : p.channel ≠ c) (e : SinkEn) (r : LastRegs) :
    lastOn c (eventIfNew e r p) = none := by
  unfold eventIfNew
  split
  · rw [lastOn_pub_cons, if_neg hc]; rfl
  · rfl

/-- With a sink, a value already held is all that a publish may keep silent. -/
theorem lastOn_eventIfNew_same {e : SinkEn} {p : Pub} (hs : sinkEnabled e p.channel = true) (r : LastRegs) :
    lastOn p.channel (eventIfNew e r p) = some p
    ∨ regPub r p.channel = some p ∧ lastOn p.channel (eventIfNew e r p) = none := by
  by_cases hr : regPub r p.channel = some p
  · exact .inr ⟨hr, by simp [eventIfNew, hr, lastOn]⟩
  · exact .inl (by simp [eventIfNew, hr, hs, lastOn])

/-- What the register of a channel with a sink should hold: the last value published, else its reset
value. -/
theorem regsTrack_iff (s : State) :
    RegsTrack s ↔ ∀ c, sinkEnabled s.cfg.sinkEn c = true →
      regPub s.last c = (lastOn c s.evOut).or (regPub s.cfg.initLast c) := by
  unfold RegsTrack
  refine forall_congr' fun c => imp_congr_right fun _ => ?_
  cases lastOn c s.evOut <;> exact Iff.rfl

/-- The publish filter keeps the register invariant (41_record_decoder.md R140). -/
theorem publish_keeps_regsTrack {p : Pub} {s : State} (hs : RegsTrack s) : RegsTrack (publish p s) := by
  rw [regsTrack_iff] at hs ⊢
  intro c hc
  rw [publish_cfg] at hc ⊢
  simp only [publish_eq, lastOn_append]
  by_cases hp : p.channel = c
  · subst hp
    rw [regPub_store_same]
    rcases lastOn_eventIfNew_same hc s.last with hnew | ⟨hheld, hsilent⟩
    · rw [hnew]; rfl
    · rw [hsilent, Option.none_or, ← hs _ hc, hheld]
  · rw [regPub_store_other hp, lastOn_eventIfNew_other hp, Option.none_or]
    exact hs c hc

theorem warn_keeps_regsTrack {m : Byte} {s : State} (hs : RegsTrack s) : RegsTrack (emit (.warn m) s) := by
  rw [regsTrack_iff] at hs ⊢
  intro c hc
  rw [emit_evOut, lastOn_append]
  exact hs c hc

theorem regsTrack_kept : KeptByUpdates RegsTrack where
  buf _ _ hs := hs
  flag _ _ hs := hs
  warn _ _ hs := warn_keeps_regsTrack hs
  pub _ _ _ hs := publish_keeps_regsTrack hs
  draw _ hs := hs

/-- Settles O46: every update an operation is made of keeps the invariant, and no step but a reset
writes the registers otherwise. -/
theorem stepKeepsTheRegisterInvariant : Obligations.StepKeepsTheRegisterInvariant := by
  intro s t hrst hs h
  rcases step_cases h with ⟨-, rfl⟩ | ⟨rest, hin, -⟩ | ⟨b, rest, -, hexec⟩
  · exact hs
  · exact absurd (by rw [hin]; rfl) hrst
  · have hs' : RegsTrack { s with input := rest } := hs
    exact exec_kept regsTrack_kept hs' hexec

/-- With no event yet the invariant asks for the reset values, which are what a reset loads. -/
theorem resetWith_regsTrack (cfg : Config) : RegsTrack (State.resetWith cfg) := by
  rw [regsTrack_iff]
  intro c _
  rfl

/-- Settles O47. -/
theorem resetHasTheRegisterInvariant : Obligations.ResetHasTheRegisterInvariant :=
  ⟨resetWith_regsTrack resetConfig, resetWith_regsTrack⟩

end Sys2Proof.Machine
end

section
/-! PROOF. The width of the integer registers (spec 10_state.md R21, R23). -/

namespace Sys2Proof.Machine

/-- Storing a publish of `w` bits keeps the integer registers to `w` bits. -/
theorem store_regsFit {w : Nat} {r : LastRegs} {p : Pub} (hp : EventFits w (.pub p)) (hr : RegsFit w r) :
    RegsFit w (store r p) := by
  obtain ⟨hlevel, hstate⟩ := hr
  cases p with
  | level v => exact ⟨fun x hx => by cases hx; exact hp, hstate⟩
  | stateRaw v => exact ⟨hlevel, fun x hx => by cases hx; exact hp⟩
  | modeRaw | modeTxt | statusTxt | sourceTxt => exact ⟨hlevel, hstate⟩

theorem publish_keeps_integersFit {p : Pub} {s : State} (hp : PubOk s.cfg p) (hs : IntegersFit s) :
    IntegersFit (publish p s) := by
  rw [publish_eq]
  exact ⟨store_regsFit hp.1 hs.1, hs.2⟩

theorem integersFit_kept : KeptByUpdates IntegersFit where
  buf _ _ hs := hs
  flag _ _ hs := hs
  warn _ _ hs := hs
  pub _ _ hp hs := publish_keeps_integersFit hp hs
  draw _ hs := hs

/-- Settles O48: a reset loads values of INT_W bits, and every update of an operation stores none that
is wider, drawn or not. -/
theorem stepKeepsTheIntegerWidth : Obligations.StepKeepsTheIntegerWidth := by
  intro s t hs h
  rcases step_cases h with ⟨-, rfl⟩ | ⟨rest, -, rfl⟩ | ⟨b, rest, -, hexec⟩
  · exact hs
  · exact ⟨hs.2, hs.2⟩
  · have hs' : IntegersFit { s with input := rest } := hs
    exact exec_kept integersFit_kept hs' hexec

theorem regsFit_initLastNone (w : Nat) : RegsFit w initLastNone :=
  ⟨nofun, nofun⟩

/-- Settles O49. -/
theorem resetHasTheIntegerWidth : Obligations.ResetHasTheIntegerWidth :=
  ⟨⟨regsFit_initLastNone _, regsFit_initLastNone _⟩, fun _ hcfg => ⟨hcfg, hcfg⟩⟩

end Sys2Proof.Machine
end

section
/-! PROOF. The phase after each byte class (spec 10_state.md R30, R31). -/

namespace Sys2Proof.Machine

theorem phase_eq_idle_iff (s : State) : s.phase = .idle ↔ s.buf = [] := by
  unfold State.phase
  cases s.buf with
  | nil => simp [Memory.phase]
  | cons c m => simp only [Memory.phase]; split <;> simp

/-- The phase of a buffer is that of its first byte, so appending to it changes nothing. -/
theorem phase_append {m : Memory} (hm : m ≠ []) (b : Byte) : Memory.phase (m ++ [b]) = Memory.phase m := by
  cases m with
  | nil => exact absurd rfl hm
  | cons c m => rfl

theorem phase_singleton_other {b : Byte} (hb : classOf b = .other) : Memory.phase [b] = .accOther := by
  have hlt : b ≠ chLT := by rintro rfl; cases hb
  exact if_neg hlt

/-- One byte is too short for `JSON_OPEN`. -/
theorem jsonBounds_singleton (b : Byte) : jsonBounds [b] = none := by
  rw [jsonBounds_eq_none]
  intro i j hopen
  have hlen := congrArg List.length hopen
  simp only [slice_eq_take_drop, List.length_take, List.length_drop, List.length_singleton, jsonOpen_length] at hlen
  omega

theorem flushBoundary_phase {s t : State} (h : flushBoundary s = .next t) : t.phase = .idle := by
  rw [phase_eq_idle_iff]
  rcases flushBoundary_cases h with ⟨hnil, rfl⟩ | ⟨-, u, -, rfl⟩
  · exact hnil
  · rfl

theorem execFeedLt_buf {s t : State} (h : execFeedLt s = .next t) : t.buf = [chLT] := by
  rcases execFeedLt_cases h with ⟨-, rfl⟩ | ⟨-, u, -, rfl⟩ <;> rfl

/-- The OTHER column from IDLE: the byte starts a record that is no hex frame. -/
theorem execFeedOther_phase_of_idle {b : Byte} {s t : State} (hb : classOf b = .other) (hs : s.phase = .idle)
    (hcap : 1 ≤ s.cfg.bufCap) (h : execFeedOther b s = .next t) : t.phase = .accOther := by
  have hnil := (phase_eq_idle_iff s).mp hs
  rcases execFeedOther_cases h with ⟨i, j, u, hjson, -, -⟩ | ⟨-, hover, -⟩ | ⟨-, -, rfl⟩
  · rw [hnil, List.nil_append, jsonBounds_singleton] at hjson
    cases hjson
  · rw [hnil, List.length_nil] at hover
    omega
  · rw [State.phase, bufAppend_buf, hnil, List.nil_append]
    exact phase_singleton_other hb

/-- The OTHER column from ACC_HEX and ACC_OTHER: the phase stays, unless a record completes or the
buffer overflows. -/
theorem execFeedOther_phase_of_pending {b : Byte} {s t : State} (hs : s.buf ≠ [])
    (h : execFeedOther b s = .next t) :
    t.phase = if jsonBounds (s.buf ++ [b]) ≠ none ∨ s.cfg.bufCap < s.buf.length + 1 then .idle else s.phase := by
  rcases execFeedOther_cases h with ⟨i, j, u, hjson, -, rfl⟩ | ⟨-, hover, rfl⟩ | ⟨hjson, hfits, rfl⟩
  · rw [if_pos (.inl (by simp [hjson]))]; rfl
  · rw [if_pos (.inr hover)]; rfl
  · have hkept : ¬ (jsonBounds (s.buf ++ [b]) ≠ none ∨ s.cfg.bufCap < s.buf.length + 1) := by
      rintro (hne | hover)
      · exact hne hjson
      · omega
    rw [if_neg hkept]
    exact phase_append hs b

/-- Settles O14, column by column. -/
theorem phaseTransitionTable : Obligations.PhaseTransitionTable := by
  intro s t
  refine ⟨fun h => h.elim flushBoundary_phase flushBoundary_phase, fun h => ?_, fun b hb h => ⟨?_, ?_, ?_⟩⟩
  · have hbuf := execFeedLt_buf h
    exact ⟨by rw [State.phase, hbuf]; rfl, hbuf⟩
  · exact fun hs hcap => execFeedOther_phase_of_idle hb hs hcap h
  all_goals
    intro hs
    have hpending : s.buf ≠ [] := fun hnil => by rw [State.phase, hnil] at hs; cases hs
    rw [← hs]
    exact execFeedOther_phase_of_pending hpending h

end Sys2Proof.Machine
end

section
/-! PROOF. The refresh flag, the events of a step, the registers a decoder operation writes, and the
configuration (spec 10_state.md R28, R29, R33, R39, R41). -/

namespace Sys2Proof.Machine

@[simp] theorem publish_inRefresh (p : Pub) (s : State) : (publish p s).inRefresh = s.inRefresh := by rw [publish_eq]

@[simp] theorem publishJson_inRefresh (top st : IntW) (s : State) : (publishJson top st s).inRefresh = s.inRefresh := by
  simp only [publishJson, publishIf_eq]

/-! ## The refresh flag -/

theorem nextRefresh_rises {m : Byte} {row : Option ModeRow} (h : nextRefresh m row false = true) :
    ∃ r, row = some r ∧ r.isMarker = true := by
  unfold nextRefresh at h
  split at h
  · rename_i hmarker
    exact Option.map_eq_some_iff.mp hmarker
  · split at h <;> cases h

theorem nextRefresh_falls {m : Byte} {row : Option ModeRow} (h : nextRefresh m row true = false) :
    m = 0x01#8 ∨ m = 0x04#8 ∨ m = 0x08#8 := by
  unfold nextRefresh at h
  split at h
  · cases h
  · split at h
    · rename_i hidle
      simpa [idleCodes] using hidle
    · cases h

/-- UpdateRefresh is all that writes the flag (41_record_decoder.md R162), and the mode byte it reads is
then LAST_MODE_RAW. -/
theorem exec_inRefresh {i : Instr} {s t : State} (h : exec i s = .next t) :
    t.inRefresh = s.inRefresh
    ∨ ∃ m, t.last.modeRaw = some m ∧ t.inRefresh = nextRefresh m (lookup s.cfg.modeTable m) s.inRefresh := by
  rcases exec_around_decoder h with ⟨m, rfl⟩ | ⟨j, m, m', u, hj, hu, rfl⟩
  · exact .inl rfl
  · cases exec_decoder_result hj hu with
    | dropped => exact .inl rfl
    | level => exact .inl (publish_inRefresh _ _)
    | json => exact .inl (publishJson_inRefresh _ _ _)
    | modeFrame _ _ _ b | modeCode _ b => exact .inr ⟨b, by simp [classify_eq], by simp [classify_eq]⟩

/-- Settles O35. -/
theorem flagMovesOnlyWithAModeByte : Obligations.FlagMovesOnlyWithAModeByte := by
  intro i s t h
  refine ⟨fun hs ht => ?_, fun hs ht => ?_⟩ <;>
    rcases exec_inRefresh h with hflag | ⟨m, hraw, hflag⟩ <;> rw [hs, ht] at hflag
  · cases hflag
  · obtain ⟨r, hrow, hmarker⟩ := nextRefresh_rises hflag.symm
    exact ⟨m, r, hraw, hrow, hmarker⟩
  · cases hflag
  · rw [hraw]
    simpa using nextRefresh_falls hflag.symm

/-! ## The events of a step -/

/-- From `s` to `t` the events already emitted stay, and at most `n` come after them. -/
def AddsAtMost (n : Nat) (s t : State) : Prop := t.evOut = s.evOut ++ newEvents s t ∧ (newEvents s t).length ≤ n

theorem addsAtMost_of_append {n : Nat} {s t : State} {new : List Event} (hnew : t.evOut = s.evOut ++ new)
    (hlen : new.length ≤ n) : AddsAtMost n s t := by
  have : newEvents s t = new := by rw [newEvents, hnew, List.drop_left]
  exact ⟨by rw [this, hnew], by rw [this]; exact hlen⟩

theorem addsAtMost_of_evOut_eq {n : Nat} {s t : State} (h : t.evOut = s.evOut) : AddsAtMost n s t :=
  addsAtMost_of_append (new := []) (by rw [h, List.append_nil]) (Nat.zero_le n)

/-- An effect of at most `n` events adds at most `n` events, from the ports as they are. -/
theorem HasEffect.addsAtMost {n : Nat} {f : State → Host.Outcome State Fault Refusal} {s t : State}
    (hf : HasEffect n f s) (h : f s = .next t) : AddsAtMost n s t := by
  obtain ⟨last, flag, draws, new, hlen, heff⟩ := hf
  have hself : f s = _ := heff s.buf s.input s.evOut
  rw [h] at hself
  cases hself
  exact addsAtMost_of_append rfl hlen

theorem exec_addsAtMost {i : Instr} {s t : State} (h : exec i s = .next t) : AddsAtMost 5 s t := by
  rcases exec_around_decoder h with ⟨m, rfl⟩ | ⟨j, m, m', u, hj, hu, rfl⟩
  · exact addsAtMost_of_evOut_eq rfl
  · have hadds : AddsAtMost 5 (withBuf m s) u := (exec_effect hj (withBuf m s)).addsAtMost hu
    exact hadds

theorem step_addsAtMost {s t : State} (h : step s = .next t) : AddsAtMost 5 s t := by
  rcases step_cases h with ⟨-, rfl⟩ | ⟨rest, -, rfl⟩ | ⟨b, rest, -, hexec⟩
  · exact addsAtMost_of_evOut_eq rfl
  · exact addsAtMost_of_evOut_eq rfl
  · have hadds : AddsAtMost 5 { s with input := rest } t := exec_addsAtMost hexec
    exact hadds

/-- Settles O43. -/
theorem eventsPerStepAreBounded : Obligations.EventsPerStepAreBounded :=
  ⟨fun _ _ h => step_addsAtMost h,
    fun s _ c1 c2 tail h => ((level_effect c1 c2 tail s).addsAtMost h).2,
    fun s _ r h => ((json_effect r s).addsAtMost h).2,
    fun s _ c1 c2 tail h => ((mode_effect c1 c2 tail s).addsAtMost h).2⟩

/-! ## The registers a decoder operation writes -/

/-- The flag and the four mode registers are the same. -/
def SameModeState (s t : State) : Prop :=
  t.inRefresh = s.inRefresh ∧ t.last.modeRaw = s.last.modeRaw ∧ t.last.modeTxt = s.last.modeTxt
    ∧ t.last.statusTxt = s.last.statusTxt ∧ t.last.sourceTxt = s.last.sourceTxt

theorem SameModeState.refl (s : State) : SameModeState s s := ⟨rfl, rfl, rfl, rfl, rfl⟩

theorem SameModeState.trans {s t u : State} (h1 : SameModeState s t) (h2 : SameModeState t u) : SameModeState s u := by
  obtain ⟨f1, r1, m1, st1, so1⟩ := h1
  obtain ⟨f2, r2, m2, st2, so2⟩ := h2
  exact ⟨f2.trans f1, r2.trans r1, m2.trans m1, st2.trans st1, so2.trans so1⟩

theorem publish_level_sameModeState (v : IntW) (s : State) : SameModeState s (publish (.level v) s) := by
  rw [publish_eq]; exact .refl s

theorem publish_stateRaw_sameModeState (v : IntW) (s : State) : SameModeState s (publish (.stateRaw v) s) := by
  rw [publish_eq]; exact .refl s

theorem publishIf_sameModeState {p : Pub} {s : State} (c : Bool) (h : SameModeState s (publish p s)) :
    SameModeState s (publishIf c p s) := by
  cases c with
  | false => exact .refl s
  | true => exact h

theorem publishJson_sameModeState (top st : IntW) (s : State) : SameModeState s (publishJson top st s) :=
  (publishIf_sameModeState _ (publish_level_sameModeState top s)).trans
    (publishIf_sameModeState _ (publish_stateRaw_sameModeState st _))

@[simp] theorem classify_level (m : Byte) (s : State) : (classify m s).last.level = s.last.level := by rw [classify_eq]

@[simp] theorem classify_stateRaw (m : Byte) (s : State) : (classify m s).last.stateRaw = s.last.stateRaw := by
  rw [classify_eq]

/-- The inputs are written by no update that an operation is made of. -/
theorem input_kept (inp : List Stimulus) : KeptByUpdates (fun t => t.input = inp) where
  buf _ _ hs := hs
  flag _ _ hs := hs
  warn _ _ hs := hs
  pub _ _ _ hs := by rw [publish_eq]; exact hs
  draw _ hs := hs

/-- Neither is the configuration (10_state.md R33). -/
theorem cfg_kept (cfg : Config) : KeptByUpdates (fun t => t.cfg = cfg) where
  buf _ _ hs := hs
  flag _ _ hs := hs
  warn _ _ hs := hs
  pub _ _ _ hs := by rw [publish_cfg]; exact hs
  draw _ hs := hs

theorem exec_input {i : Instr} {s t : State} (h : exec i s = .next t) : t.input = s.input :=
  exec_kept (input_kept s.input) rfl h

theorem exec_cfg {i : Instr} {s t : State} (h : exec i s = .next t) : t.cfg = s.cfg :=
  exec_kept (cfg_kept s.cfg) rfl h

theorem DecoderResult.sameModeState {i : Instr} {s t : State} (h : DecoderResult s i t)
    (hframe : ∀ c1 c2 x, i ≠ .decMode1053 c1 c2 x) (hcode : sourceOf i ≠ .modeByte) : SameModeState s t := by
  cases h with
  | dropped _ d => exact .refl s
  | level _ _ _ v d => exact publish_level_sameModeState v (withDraws d s)
  | json _ top st d => exact publishJson_sameModeState top st (withDraws d s)
  | modeFrame => exact absurd rfl (hframe _ _ _)
  | modeCode _ _ hi => exact absurd hi hcode

theorem DecoderResult.level_eq {i : Instr} {s t : State} (h : DecoderResult s i t)
    (hframe : ∀ c1 c2 x, i ≠ .decLevel2053 c1 c2 x) (hjson : sourceOf i ≠ .inline) : t.last.level = s.last.level := by
  cases h with
  | dropped => rfl
  | level => exact absurd rfl (hframe _ _ _)
  | json => exact absurd rfl hjson
  | modeFrame | modeCode => exact classify_level _ _

theorem DecoderResult.stateRaw_eq {i : Instr} {s t : State} (h : DecoderResult s i t)
    (hjson : sourceOf i ≠ .inline) : t.last.stateRaw = s.last.stateRaw := by
  cases h with
  | dropped => rfl
  | level => rw [publish_eq]; rfl
  | json => exact absurd rfl hjson
  | modeFrame | modeCode => exact classify_stateRaw _ _

/-- Settles O44. -/
theorem decoderOperationsWriteOnlyTheirRegisters : Obligations.DecoderOperationsWriteOnlyTheirRegisters := by
  intro i s t hi h
  have hres := exec_decoder_result hi h
  exact ⟨fun k => by rw [exec_decoder_buf hi h], exec_cfg h, exec_input h,
    hres.sameModeState, hres.level_eq, hres.stateRaw_eq⟩

/-! ## The configuration -/

/-- Settles O45. -/
theorem configurationIsConstant : Obligations.ConfigurationIsConstant := by
  intro s t h
  rcases step_cases h with ⟨-, rfl⟩ | ⟨rest, -, rfl⟩ | ⟨b, rest, -, hexec⟩
  · rfl
  · rfl
  · have hcfg : t.cfg = { s with input := rest }.cfg := exec_cfg hexec
    exact hcfg

end Sys2Proof.Machine
end

section
/-! PROOF. Level 1 and level 3 of the encoding (spec 30_encoding.md R71, R90) and the text values (R103). -/

namespace Sys2Proof

/-- A byte of class OTHER is fed as it is (30_encoding.md R71). -/
theorem decodeByte_of_plain {b : Byte} (hb : plainByte b = true) : decodeByte b = .feedOther b := by
  have hclass : classOf b = .other := of_decide_eq_true hb
  rw [decodeByte, hclass]

/-- Settles O4. -/
theorem byteClassMap : Obligations.ByteClassMap :=
  ⟨rfl, rfl, rfl, fun b hcr hlf hlt => decodeByte_of_plain ((Machine.plainByte_iff b).mpr ⟨hcr, hlf, hlt⟩)⟩

/-- Settles O53. -/
theorem textValueCodes : Obligations.TextValueCodes := ⟨rfl, rfl, rfl⟩

/-- The operation of a byte has that byte as its word. -/
theorem encode_decodeByte (b : Byte) : encode (decodeByte b) = [b] := by
  by_cases hcr : b = chCR
  · subst hcr; rfl
  by_cases hlf : b = chLF
  · subst hlf; rfl
  by_cases hlt : b = chLT
  · subst hlt; rfl
  rw [decodeByte_of_plain ((Machine.plainByte_iff b).mpr ⟨hcr, hlf, hlt⟩)]
  rfl

theorem sourceOf_decodeByte (b : Byte) : sourceOf (decodeByte b) = .byteIn := by
  unfold decodeByte
  cases classOf b <;> rfl

theorem decodeMode_of_other {m : Byte} (hm : modeSel m = .other) : decodeMode m = .modeOther m := by
  rw [decodeMode, hm]

/-- The mode code a row of the table fixes; the row of all other codes fixes none. -/
def ModeSel.code? : ModeSel → Option Byte
  | .m00 => some 0x00#8
  | .m01 => some 0x01#8
  | .m04 => some 0x04#8
  | .m08 => some 0x08#8
  | .m10 => some 0x10#8
  | .m14 => some 0x14#8
  | .other => none

/-- A row that fixes a mode code is selected by that code only. -/
theorem eq_of_modeSel_code {m c : Byte} (hc : (modeSel m).code? = some c) : m = c := by
  unfold modeSel at hc
  repeat' split at hc
  all_goals cases hc
  all_goals assumption

/-- The operation of a mode byte has that byte as its word. -/
theorem encode_decodeMode (m : Byte) : encode (decodeMode m) = [m] := by
  have hcode := fun c => eq_of_modeSel_code (m := m) (c := c)
  unfold decodeMode
  cases hsel : modeSel m with
  | other => rfl
  | m00 | m01 | m04 | m08 | m10 | m14 => rw [hcode _ (by rw [hsel]; rfl)]; rfl

theorem sourceOf_decodeMode (m : Byte) : sourceOf (decodeMode m) = .modeByte := by
  unfold decodeMode
  cases modeSel m <;> rfl

end Sys2Proof
end

section
/-! PROOF. The rows of the hex dispatcher as patterns: each row but the last is selected exactly by its
own pattern, and a flushed record and its instruction are each the other's encoding (spec 30_encoding.md
R72, R74, R82; 41_record_decoder.md R141 to R143, R146). -/

namespace Sys2Proof

/-- The characters a stripped record of a row starts with; none for DEC_OTHER. -/
def HexRow.pattern : HexRow → Bytes
  | .level => pre2053
  | .ign20123 => pre20123
  | .ign2071 => pre2071
  | .ign2010 => pre2010
  | .ign30123 => pre30123
  | .ign40123 => pre40123
  | .ign4071 => pre4071
  | .ign4010 => pre4010
  | .ign4033 => pre4033
  | .mode => pre1053
  | .other => []

/-- The stripped length a row asks for (R146). -/
def HexRow.minLen : HexRow → Nat
  | .level | .mode => minFrameLen
  | _ => 0

/-- The instruction of a flushed record whose stripped form is a row's pattern and then `tail`. -/
def HexRow.instr : HexRow → Bytes → Instr
  | .level, tail => .decLevel2053 (tail.getD 0 0) (tail.getD 1 0) (tail.drop 2)
  | .ign20123, tail => .decIgn20123 tail
  | .ign2071, tail => .decIgn2071 tail
  | .ign2010, tail => .decIgn2010 tail
  | .ign30123, tail => .decIgn30123 tail
  | .ign40123, tail => .decIgn40123 tail
  | .ign4071, tail => .decIgn4071 tail
  | .ign4010, tail => .decIgn4010 tail
  | .ign4033, tail => .decIgn4033 tail
  | .mode, tail => .decMode1053 (tail.getD 0 0) (tail.getD 1 0) (tail.drop 2)
  | .other, tail => .decOther (chLT :: tail)

/-- A stripped record is one of a row: it starts with the row's pattern and is long enough. -/
def HexRow.Matches (row : HexRow) (s : Bytes) : Prop := startsWith s row.pattern = true ∧ row.minLen ≤ s.length

/-- The ten patterns of the dispatcher (R82). -/
def hexPatterns : List Bytes :=
  [pre2053, pre20123, pre2071, pre2010, pre30123, pre40123, pre4071, pre4010, pre4033, pre1053]

/-- No pattern begins with another one. -/
theorem hexPatterns_isPrefixOf : ∀ p ∈ hexPatterns, ∀ q ∈ hexPatterns, p.isPrefixOf q = true → p = q := by decide

/-- Of two patterns at the start of one string one begins with the other, so they are the same. -/
theorem eq_of_startsWith_patterns {s p q : Bytes} (hp : p ∈ hexPatterns) (hq : q ∈ hexPatterns)
    (hsp : startsWith s p = true) (hsq : startsWith s q = true) : p = q := by
  rcases List.prefix_or_prefix_of_prefix (List.isPrefixOf_iff_prefix.mp hsp) (List.isPrefixOf_iff_prefix.mp hsq)
    with hpq | hqp
  · exact hexPatterns_isPrefixOf p hp q hq (List.isPrefixOf_iff_prefix.mpr hpq)
  · exact (hexPatterns_isPrefixOf q hq p hp (List.isPrefixOf_iff_prefix.mpr hqp)).symm

/-- Settles O27. -/
theorem hexPatternsExcludeEachOther : Obligations.HexPatternsExcludeEachOther :=
  fun _ _ _ hp hq hsp hsq => eq_of_startsWith_patterns hp hq hsp hsq

theorem pattern_mem_hexPatterns {row : HexRow} (hrow : row ≠ .other) : row.pattern ∈ hexPatterns := by
  cases row with
  | other => exact absurd rfl hrow
  | _ => decide

/-- Different rows have different patterns. -/
theorem pattern_injective : Function.Injective HexRow.pattern := by
  intro row row' h
  cases row <;> cases row' <;> first | rfl | exact absurd h (by decide)

/-- The row the dispatcher selects matches. -/
theorem hexRow_matches (s : Bytes) : (hexRow s).Matches s := by
  have hother : HexRow.Matches .other s := ⟨by simp [startsWith, HexRow.pattern], Nat.zero_le _⟩
  unfold hexRow
  repeat' split
  all_goals first
    | exact hother
    | (rename_i h; exact ⟨h, Nat.zero_le _⟩)
    | (rename_i h; rw [Bool.and_eq_true, decide_eq_true_iff] at h; exact h)

/-- A record that some row matches is not left to DEC_OTHER. -/
theorem hexRow_ne_other {row : HexRow} {s : Bytes} (hrow : row ≠ .other) (h : row.Matches s) : hexRow s ≠ .other := by
  intro hsel
  obtain ⟨hstart, hlen⟩ := h
  unfold hexRow at hsel
  repeat' split at hsel
  all_goals cases hsel
  rename_i hlevel h20123 h2071 h2010 h30123 h40123 h4071 h4010 h4033 hmode
  cases row with
  | level => exact hlevel (Bool.and_eq_true_iff.mpr ⟨hstart, decide_eq_true hlen⟩)
  | ign20123 => exact h20123 hstart
  | ign2071 => exact h2071 hstart
  | ign2010 => exact h2010 hstart
  | ign30123 => exact h30123 hstart
  | ign40123 => exact h40123 hstart
  | ign4071 => exact h4071 hstart
  | ign4010 => exact h4010 hstart
  | ign4033 => exact h4033 hstart
  | mode => exact hmode (Bool.and_eq_true_iff.mpr ⟨hstart, decide_eq_true hlen⟩)
  | other => exact hrow rfl

/-- All that HexDispatch selects by (R143): a row's pattern and length, whichever order the rows are
tried in. -/
theorem hexRow_eq_iff {row : HexRow} {s : Bytes} (hrow : row ≠ .other) : hexRow s = row ↔ row.Matches s := by
  refine ⟨fun h => h ▸ hexRow_matches s, fun h => ?_⟩
  have hsel := pattern_mem_hexPatterns (hexRow_ne_other hrow h)
  exact pattern_injective
    (eq_of_startsWith_patterns hsel (pattern_mem_hexPatterns hrow) (hexRow_matches s).1 h.1)

theorem stripLead_lead (lead : Bool) (s : Bytes) : stripLead lead (chLT :: s) = some s := by
  simp [stripLead]

/-- A record with its `<` is decoded by its row, from what follows the row's pattern. -/
theorem decodeFlushed_lead (lead : Bool) (s : Bytes) :
    decodeFlushed lead (chLT :: s) = (hexRow s).instr (s.drop (hexRow s).pattern.length) := by
  simp only [decodeFlushed, stripLead_lead, decodeStripped]
  cases hexRow s <;> simp [HexRow.instr, HexRow.pattern, payloadHi, payloadLo, payloadTail, pre2053, pre1053,
    pre20123, pre2071, pre2010, pre30123, pre40123, pre4071, pre4010, pre4033]

/-- A `<`, a row's pattern and a long enough rest decode to the row's instruction. -/
theorem decodeFlushed_pattern_append (lead : Bool) {row : HexRow} {tail : Bytes} (hrow : row ≠ .other)
    (hlen : row.minLen ≤ (row.pattern ++ tail).length) :
    decodeFlushed lead (chLT :: (row.pattern ++ tail)) = row.instr tail := by
  rw [decodeFlushed_lead, (hexRow_eq_iff hrow).mpr ⟨startsWith_append _ _, hlen⟩, List.drop_left]

/-- The word of a row's instruction is `<`, the row's pattern and the rest. -/
theorem encode_instr {row : HexRow} {tail : Bytes} (hlen : row.minLen ≤ (row.pattern ++ tail).length) :
    encode (row.instr tail) = chLT :: (row.pattern ++ tail) := by
  cases row
  case level | mode =>
    match tail with
    | c1 :: c2 :: rest => rfl
    | [] | [_] => simp [HexRow.minLen, HexRow.pattern, minFrameLen, pre2053, pre1053] at hlen
  all_goals rfl

/-- The decoder drops no byte of a record with its `<`. -/
theorem encode_decodeFlushed_lead (lead : Bool) (s : Bytes) : encode (decodeFlushed lead (chLT :: s)) = chLT :: s := by
  obtain ⟨hstart, hlen⟩ := hexRow_matches s
  have hs := eq_append_drop_of_startsWith hstart
  rw [decodeFlushed_lead, encode_instr (by rw [← hs]; exact hlen), ← hs]

/-- Where the `<` is required, the decoder drops no byte of any record (R141). -/
theorem encode_decodeFlushed (r : Bytes) : encode (decodeFlushed true r) = r := by
  match r with
  | [] => rfl
  | c :: s =>
    by_cases hc : c = chLT
    · subst hc
      exact encode_decodeFlushed_lead true s
    · simp [decodeFlushed, stripLead, hc, encode]

/-- Settles O55, source by source. -/
theorem encodeDecodeRoundTrip : Obligations.EncodeDecodeRoundTrip := by
  intro src w i h
  cases src with
  | byteIn =>
    match w with
    | [b] => cases h; exact ⟨encode_decodeByte b, sourceOf_decodeByte b⟩
    | [] | _ :: _ :: _ => cases h
  | flushed =>
    match w with
    | [] => cases h
    | c :: r => cases h; exact ⟨encode_decodeFlushed _, Machine.sourceOf_decodeFlushed _ _⟩
  | inline =>
    simp only [decode] at h
    split at h
    · cases h; exact ⟨rfl, rfl⟩
    · cases h
  | modeByte =>
    match w with
    | [m] => cases h; exact ⟨encode_decodeMode m, sourceOf_decodeMode m⟩
    | [] | _ :: _ :: _ => cases h

end Sys2Proof
end

section
/-! PROOF. Decoding what is encoded, for every well-formed instruction (spec 30_encoding.md R71, R72, R74,
R82; 42_json_decoder.md R190). -/

namespace Sys2Proof

/-- The word of a hex frame decodes to its instruction. -/
theorem decode_pattern_append (lead : Bool) {row : HexRow} {tail : Bytes} (hrow : row ≠ .other)
    (hlen : row.minLen ≤ (row.pattern ++ tail).length) :
    decode lead .flushed (chLT :: (row.pattern ++ tail)) = .ok (row.instr tail) :=
  congrArg Except.ok (decodeFlushed_pattern_append lead hrow hlen)

theorem minFrameLen_le_of_frameFits {cap : Nat} {c1 c2 : Byte} {p tail : Bytes} (hp : p.length = 4)
    (h : frameFits cap c1 c2 tail = true) : minFrameLen ≤ (p ++ c1 :: c2 :: tail).length := by
  simp only [frameFits, Bool.and_eq_true, decide_eq_true_eq] at h
  obtain ⟨⟨-, hlen⟩, -⟩ := h
  simp only [List.length_append, List.length_cons]
  omega

theorem decodeFlushed_of_selectsOther {lead : Bool} {r : Bytes} (h : selectsOther lead r = true) :
    decodeFlushed lead r = .decOther r := by
  unfold selectsOther at h
  unfold decodeFlushed
  cases hstrip : stripLead lead r with
  | none => rfl
  | some s =>
    rw [hstrip] at h
    simp only [decodeStripped, of_decide_eq_true h]

/-- A record of DEC_OTHER is a word: it is not empty, and the dispatcher leaves it to that row. -/
theorem decode_decOther {cap : Nat} {lead : Bool} {r : Bytes} (hfits : flushedFits cap r = true)
    (hsel : selectsOther lead r = true) : decode lead .flushed r = .ok (.decOther r) := by
  match r with
  | [] => cases hfits
  | c :: s => exact congrArg Except.ok (decodeFlushed_of_selectsOther hsel)

theorem decode_decJson {cap : Nat} {r : Bytes} (lead : Bool) (h : jsonFits cap r = true) :
    decode lead .inline r = .ok (.decJson r) := by
  simp only [jsonFits, Bool.and_eq_true, decide_eq_true_eq] at h
  obtain ⟨⟨hbounds, -⟩, -⟩ := h
  exact if_pos hbounds

/-- Settles O54, row by row: one byte, a frame behind its pattern, the two whole records, a mode code. -/
theorem decodeEncodeRoundTrip : Obligations.DecodeEncodeRoundTrip := by
  intro cfg i hwf
  cases i
  case feedCr | feedLf | feedLt => rfl
  case feedOther b => exact congrArg Except.ok (decodeByte_of_plain hwf)
  case decLevel2053 c1 c2 tail =>
    exact decode_pattern_append (row := .level) _ nofun (minFrameLen_le_of_frameFits rfl hwf)
  case decMode1053 c1 c2 tail =>
    exact decode_pattern_append (row := .mode) _ nofun (minFrameLen_le_of_frameFits rfl hwf)
  case decIgn20123 tail => exact decode_pattern_append (row := .ign20123) _ nofun (Nat.zero_le _)
  case decIgn2071 tail => exact decode_pattern_append (row := .ign2071) _ nofun (Nat.zero_le _)
  case decIgn2010 tail => exact decode_pattern_append (row := .ign2010) _ nofun (Nat.zero_le _)
  case decIgn30123 tail => exact decode_pattern_append (row := .ign30123) _ nofun (Nat.zero_le _)
  case decIgn40123 tail => exact decode_pattern_append (row := .ign40123) _ nofun (Nat.zero_le _)
  case decIgn4071 tail => exact decode_pattern_append (row := .ign4071) _ nofun (Nat.zero_le _)
  case decIgn4010 tail => exact decode_pattern_append (row := .ign4010) _ nofun (Nat.zero_le _)
  case decIgn4033 tail => exact decode_pattern_append (row := .ign4033) _ nofun (Nat.zero_le _)
  case decOther r =>
    obtain ⟨hfits, hsel⟩ := Bool.and_eq_true_iff.mp hwf
    exact decode_decOther hfits hsel
  case decJson r => exact decode_decJson _ hwf
  case mode00 | mode01 | mode04 | mode08 | mode10 | mode14 => rfl
  case modeOther m => exact congrArg Except.ok (decodeMode_of_other (of_decide_eq_true hwf))

/-- Settles O56. -/
theorem writtenWordsDecode : Obligations.WrittenWordsDecode := ⟨rfl, rfl, rfl, rfl, rfl⟩

end Sys2Proof
end

section
/-! PROOF. Heartbeats and unread bytes at a boundary (spec 30_encoding.md R75, R82, R84). -/

namespace Sys2Proof.Machine

/-- CR or LF on pending content runs the decoded record and clears the buffer (40_reassembler.md R110). -/
theorem flushBoundary_pending {s : State} (h : s.buf ≠ []) :
    flushBoundary s = mapNext bufClear (exec (decodeFlushed s.cfg.hexLeadRequired s.buf) s) := by
  have hlen : 0 < Memory.len s.buf := List.length_pos_of_ne_nil h
  rw [flushBoundary, if_pos hlen, dispatchFlushed_eq_exec]

/-- `<` on pending content runs the decoded record and starts a frame (40_reassembler.md R112). -/
theorem execFeedLt_pending {s : State} (h : s.buf ≠ []) :
    execFeedLt s = mapNext bufSetLT (exec (decodeFlushed s.cfg.hexLeadRequired s.buf) s) := by
  have hlen : 0 < Memory.len s.buf := List.length_pos_of_ne_nil h
  rw [execFeedLt, if_pos hlen, dispatchFlushed_eq_exec]

/-- A pending record without effect leaves only the buffer to a boundary. -/
theorem boundary_of_no_effect {s : State} (hbuf : s.buf ≠ [])
    (h : exec (decodeFlushed s.cfg.hexLeadRequired s.buf) s = .next s) :
    exec .feedCr s = .next { s with buf := [] } ∧ exec .feedLf s = .next { s with buf := [] }
      ∧ exec .feedLt s = .next { s with buf := [chLT] } := by
  have hflush : flushBoundary s = .next (bufClear s) := by rw [flushBoundary_pending hbuf, h]; rfl
  have hlt : execFeedLt s = .next (bufSetLT s) := by rw [execFeedLt_pending hbuf, h]; rfl
  exact ⟨hflush, hflush, hlt⟩

/-- The patterns of the heartbeat rows (30_encoding.md R82). -/
def ignorePatterns : List Bytes := [pre20123, pre2071, pre2010, pre30123, pre40123, pre4071, pre4010, pre4033]

/-- An ignore pattern is that of a row that asks for no length and whose instruction does nothing. -/
theorem exists_row_of_ignorePattern {p : Bytes} (hp : p ∈ ignorePatterns) :
    ∃ row : HexRow, row ≠ .other ∧ row.pattern = p ∧ row.minLen = 0
      ∧ ∀ tail s, exec (row.instr tail) s = .next s := by
  simp only [ignorePatterns, List.mem_cons, List.not_mem_nil, or_false] at hp
  rcases hp with rfl | rfl | rfl | rfl | rfl | rfl | rfl | rfl
  · exact ⟨.ign20123, nofun, rfl, rfl, fun _ _ => rfl⟩
  · exact ⟨.ign2071, nofun, rfl, rfl, fun _ _ => rfl⟩
  · exact ⟨.ign2010, nofun, rfl, rfl, fun _ _ => rfl⟩
  · exact ⟨.ign30123, nofun, rfl, rfl, fun _ _ => rfl⟩
  · exact ⟨.ign40123, nofun, rfl, rfl, fun _ _ => rfl⟩
  · exact ⟨.ign4071, nofun, rfl, rfl, fun _ _ => rfl⟩
  · exact ⟨.ign4010, nofun, rfl, rfl, fun _ _ => rfl⟩
  · exact ⟨.ign4033, nofun, rfl, rfl, fun _ _ => rfl⟩

/-- A heartbeat record has no effect, whatever follows its pattern (30_encoding.md R84). -/
theorem exec_heartbeat (lead : Bool) {p : Bytes} (hp : p ∈ ignorePatterns) (tail : Bytes) (s : State) :
    exec (decodeFlushed lead (chLT :: (p ++ tail))) s = .next s := by
  obtain ⟨row, hrow, rfl, hlen, hexec⟩ := exists_row_of_ignorePattern hp
  rw [decodeFlushed_pattern_append lead hrow (by rw [hlen]; exact Nat.zero_le _)]
  exact hexec tail s

/-- Settles O21. -/
theorem flushedHeartbeatOnlyClearsTheBuffer : Obligations.FlushedHeartbeatOnlyClearsTheBuffer := by
  intro s p tail hp hbuf
  refine boundary_of_no_effect (by rw [hbuf]; exact List.cons_ne_nil _ _) ?_
  rw [hbuf]
  exact exec_heartbeat _ hp tail s

/-- An effect that does not depend on the ports leaves the same state once the buffer is cleared. -/
theorem HasEffect.bufClear_eq {n : Nat} {f : State → Host.Outcome State Fault Refusal} {s : State}
    (h : HasEffect n f s) (m m' : Memory) :
    mapNext bufClear (f { s with buf := m }) = mapNext bufClear (f { s with buf := m' }) := by
  obtain ⟨last, flag, draws, new, -, heff⟩ := h
  have hm : f { s with buf := m } = _ := heff m s.input s.evOut
  have hm' : f { s with buf := m' } = _ := heff m' s.input s.evOut
  rw [hm, hm']
  rfl

/-- CR on a frame of the level or the mode row runs the row's instruction. -/
theorem exec_feedCr_frame (s : State) {row : HexRow} {c1 c2 : Byte} {x : Bytes} (hrow : row = .level ∨ row = .mode)
    (hx : 4 ≤ x.length) :
    exec .feedCr { s with buf := chLT :: (row.pattern ++ c1 :: c2 :: x) }
      = mapNext bufClear (exec (row.instr (c1 :: c2 :: x)) { s with buf := chLT :: (row.pattern ++ c1 :: c2 :: x) }) := by
  have hlen : row.minLen ≤ (row.pattern ++ c1 :: c2 :: x).length := by
    rcases hrow with rfl | rfl <;>
      simp only [HexRow.minLen, HexRow.pattern, minFrameLen, pre2053, pre1053, List.length_append, List.length_cons] <;>
      omega
  have hne : row ≠ .other := by rcases hrow with rfl | rfl <;> nofun
  have hflush := flushBoundary_pending (s := { s with buf := chLT :: (row.pattern ++ c1 :: c2 :: x) }) nofun
  rw [decodeFlushed_pattern_append _ hne hlen] at hflush
  exact hflush

/-- Settles O26: neither frame's instruction reads its tail, nor the buffer the tail stands in. -/
theorem checksumIsNeverRead : Obligations.ChecksumIsNeverRead := by
  intro s p c1 c2 x y hp hx hy
  rcases hp with rfl | rfl
  · exact (exec_feedCr_frame s (.inl rfl) hx).trans
      (((level_effect c1 c2 x s).bufClear_eq _ _).trans (exec_feedCr_frame s (.inl rfl) hy).symm)
  · exact (exec_feedCr_frame s (.inr rfl) hx).trans
      (((mode_effect c1 c2 x s).bufClear_eq _ _).trans (exec_feedCr_frame s (.inr rfl) hy).symm)

end Sys2Proof.Machine
end

section
/-! PROOF. The mode codes that every legal table pins (spec 30_encoding.md R90 to R92). -/

namespace Sys2Proof.Machine

@[simp] theorem classify_inRefresh (m : Byte) (s : State) :
    (classify m s).inRefresh = nextRefresh m (lookup s.cfg.modeTable m) s.inRefresh := by rw [classify_eq]

@[simp] theorem classify_modeRaw (m : Byte) (s : State) : (classify m s).last.modeRaw = some m := by rw [classify_eq]

@[simp] theorem classify_modeTxt (m : Byte) (s : State) : (classify m s).last.modeTxt
    = some (resolveMode m (lookup s.cfg.modeTable m) (nextRefresh m (lookup s.cfg.modeTable m) s.inRefresh)) := by
  rw [classify_eq]

@[simp] theorem classify_statusTxt (m : Byte) (s : State) :
    (classify m s).last.statusTxt = some (resolveStatus (lookup s.cfg.modeTable m)) := by rw [classify_eq]

@[simp] theorem classify_sourceTxt (m : Byte) (s : State) :
    (classify m s).last.sourceTxt = some (resolveSource (lookup s.cfg.modeTable m)) := by rw [classify_eq]

/-- The events of a mode byte: the warning of an unmapped one, then its new values (R160, R165). -/
theorem newEvents_classify (m : Byte) (s : State) : ∃ mode,
    newEvents s (classify m s) = (if lookup s.cfg.modeTable m = none then [.warn m] else [])
      ++ eventIfNew s.cfg.sinkEn s.last (.modeRaw m) ++ eventIfNew s.cfg.sinkEn s.last (.modeTxt mode)
      ++ eventIfNew s.cfg.sinkEn s.last (.statusTxt (resolveStatus (lookup s.cfg.modeTable m)))
      ++ eventIfNew s.cfg.sinkEn s.last (.sourceTxt (resolveSource (lookup s.cfg.modeTable m))) :=
  ⟨_, by rw [newEvents, classify_eq]; exact List.drop_left⟩

theorem warn_notMem_eventIfNew (c : Byte) (e : SinkEn) (r : LastRegs) (p : Pub) : .warn c ∉ eventIfNew e r p := by
  unfold eventIfNew
  split <;> simp

/-- A mapped byte warns of nothing. -/
theorem warn_notMem_of_mapped {m : Byte} {s : State} {r : ModeRow} (h : lookup s.cfg.modeTable m = some r) (c : Byte) :
    .warn c ∉ newEvents s (classify m s) := by
  obtain ⟨mode, hnew⟩ := newEvents_classify m s
  simp [hnew, h, warn_notMem_eventIfNew]

/-- An unmapped byte warns first. -/
theorem head_newEvents_of_unmapped {m : Byte} {s : State} (h : lookup s.cfg.modeTable m = none) :
    (newEvents s (classify m s)).head? = some (.warn m) := by
  obtain ⟨mode, hnew⟩ := newEvents_classify m s
  simp [hnew, h]

theorem nextRefresh_of_marker {m : Byte} {r : ModeRow} (hr : r.isMarker = true) (old : Bool) :
    nextRefresh m (some r) old = true := by
  simp [nextRefresh, hr]

theorem nextRefresh_of_idle {m : Byte} {r : ModeRow} (hm : m ∈ idleCodes) (hr : r.isMarker = false) (old : Bool) :
    nextRefresh m (some r) old = false := by
  simp [nextRefresh, hr, hm]

theorem nextRefresh_of_unmapped {m : Byte} (hm : m ∉ idleCodes) (old : Bool) : nextRefresh m none old = old := by
  simp [nextRefresh, hm]

/-- Only the refresh-fill code is shown other than its row says (R163). -/
theorem resolveMode_of_ne {m : Byte} (hm : m ≠ refreshFillCode) (r : ModeRow) (flag : Bool) :
    resolveMode m (some r) flag = rowModeTxt r.mode := by
  simp [resolveMode, hm]

/-- The rows a legal table has for the pinned codes, and the code it has no row for (30_encoding.md R90
to R92). -/
structure PinnedRows (t : List ModeRow) : Prop where
  marker : ∃ r, lookup t 0x10#8 = some r ∧ r.mode = .refresh ∧ r.status = .draining ∧ r.source = .rainwater
    ∧ r.isMarker = true
  fill : ∃ r, lookup t 0x00#8 = some r ∧ r.mode = .normal ∧ r.isMarker = false
  idle01 : ∃ r, lookup t 0x01#8 = some r ∧ r.mode = .normal ∧ r.status = .idle ∧ r.isMarker = false
  idle04 : ∃ r, lookup t 0x04#8 = some r ∧ r.status = .idle ∧ r.isMarker = false
  idle08 : ∃ r, lookup t 0x08#8 = some r ∧ r.status = .idle ∧ r.isMarker = false
  unmapped : lookup t 0x14#8 = none

theorem tableOk_iff (t : List ModeRow) : tableOk t = true ↔ PinnedRows t := by
  simp only [tableOk, idleRowOk, Bool.and_eq_true, Option.any_eq_true, decide_eq_true_eq, Bool.not_eq_true',
    Option.isNone_iff_eq_none, and_assoc]
  exact ⟨fun ⟨h10, h00, h01, h04, h08, h14⟩ => ⟨h10, h00, h01, h04, h08, h14⟩,
    fun ⟨h10, h00, h01, h04, h08, h14⟩ => ⟨h10, h00, h01, h04, h08, h14⟩⟩

/-- The marker 0x10 sets the flag, shows its pinned row and warns of nothing (30_encoding.md R90). -/
theorem classify_marker {s : State} (ht : PinnedRows s.cfg.modeTable) :
    (classify 0x10#8 s).inRefresh = true ∧ (classify 0x10#8 s).last.modeRaw = some 0x10#8
    ∧ (classify 0x10#8 s).last.modeTxt = some .refresh ∧ (classify 0x10#8 s).last.statusTxt = some .draining
    ∧ (classify 0x10#8 s).last.sourceTxt = some .rainwater ∧ .warn 0x10#8 ∉ newEvents s (classify 0x10#8 s) := by
  obtain ⟨r, hrow, hmode, hstatus, hsource, hmarker⟩ := ht.marker
  have hflag := nextRefresh_of_marker (m := 0x10#8) hmarker s.inRefresh
  have htxt := resolveMode_of_ne (m := 0x10#8) (by decide) r true
  refine ⟨?_, classify_modeRaw _ _, ?_, ?_, ?_, warn_notMem_of_mapped hrow _⟩
  · rw [classify_inRefresh, hrow, hflag]
  · rw [classify_modeTxt, hrow, hflag, htxt, hmode]; rfl
  · rw [classify_statusTxt, hrow, resolveStatus, hstatus]; rfl
  · rw [classify_sourceTxt, hrow, resolveSource, hsource]; rfl

/-- An unmapped byte that is no idle code keeps the flag, shows Unknown and warns first (R165). -/
theorem classify_unmapped {m : Byte} {s : State} (hm : m ∉ idleCodes) (hrow : lookup s.cfg.modeTable m = none) :
    (classify m s).inRefresh = s.inRefresh ∧ (classify m s).last.modeRaw = some m
    ∧ (classify m s).last.modeTxt = some .unknown ∧ (classify m s).last.statusTxt = some .unknown
    ∧ (classify m s).last.sourceTxt = some .unknown ∧ (newEvents s (classify m s)).head? = some (.warn m) := by
  refine ⟨?_, classify_modeRaw _ _, ?_, ?_, ?_, head_newEvents_of_unmapped hrow⟩
  · rw [classify_inRefresh, hrow, nextRefresh_of_unmapped hm]
  · rw [classify_modeTxt, hrow, resolveMode]
  · rw [classify_statusTxt, hrow, resolveStatus]
  · rw [classify_sourceTxt, hrow, resolveSource]

/-- An idle code with an idle row that is no marker clears the flag and shows Idle (R162). -/
theorem classify_idle {m : Byte} {s : State} {r : ModeRow} (hm : m ∈ idleCodes)
    (hrow : lookup s.cfg.modeTable m = some r) (hstatus : r.status = .idle) (hmarker : r.isMarker = false) :
    (classify m s).inRefresh = false ∧ (classify m s).last.statusTxt = some .idle := by
  refine ⟨?_, ?_⟩
  · rw [classify_inRefresh, hrow, nextRefresh_of_idle hm hmarker]
  · rw [classify_statusTxt, hrow, resolveStatus, hstatus]; rfl

/-- The idle code 0x01 shows Normal as well (30_encoding.md R90). -/
theorem classify_idle01 {s : State} (ht : PinnedRows s.cfg.modeTable) :
    (classify 0x01#8 s).inRefresh = false ∧ (classify 0x01#8 s).last.modeTxt = some .normal
    ∧ (classify 0x01#8 s).last.statusTxt = some .idle := by
  obtain ⟨r, hrow, hmode, hstatus, hmarker⟩ := ht.idle01
  obtain ⟨hflag, hidle⟩ := classify_idle (by decide) hrow hstatus hmarker
  refine ⟨hflag, ?_, hidle⟩
  rw [classify_modeTxt, hrow, resolveMode_of_ne (by decide), hmode]
  rfl

/-- Settles O33, code by code. -/
theorem pinnedCodesClassify : Obligations.PinnedCodesClassify := by
  intro s hok
  have ht := (tableOk_iff _).mp hok
  obtain ⟨r04, hrow04, hstatus04, hmarker04⟩ := ht.idle04
  obtain ⟨r08, hrow08, hstatus08, hmarker08⟩ := ht.idle08
  exact ⟨⟨_, rfl, classify_marker ht⟩, ⟨_, rfl, classify_unmapped (by decide) ht.unmapped⟩,
    ⟨_, rfl, classify_idle01 ht⟩, ⟨_, rfl, classify_idle (by decide) hrow04 hstatus04 hmarker04⟩,
    ⟨_, rfl, classify_idle (by decide) hrow08 hstatus08 hmarker08⟩⟩

end Sys2Proof.Machine
end

section
/-! PROOF. What the published integers can be (spec 30_encoding.md R102). -/

namespace Sys2Proof.Machine

/-- An event the configuration admits: what `PubOk` asks of a publish, of any event. -/
def EventOk (cfg : Config) (e : Event) : Prop :=
  EventFits cfg.intW e ∧ (9 ≤ cfg.intW → cfg.jsonAccept = .nonneg → eventNonneg e)

/-- From `s` on the configuration stays, and every event added is one it admits. -/
def AddsOnlyOk (s t : State) : Prop := t.cfg = s.cfg ∧ ∃ new, t.evOut = s.evOut ++ new ∧ ∀ e ∈ new, EventOk s.cfg e

theorem AddsOnlyOk.newEvents_ok {s t : State} (h : AddsOnlyOk s t) : ∀ e ∈ newEvents s t, EventOk s.cfg e := by
  obtain ⟨-, new, hnew, hok⟩ := h
  rw [newEvents, hnew, List.drop_left]
  exact hok

theorem addsOnlyOk_of_evOut_eq {s t : State} (hcfg : t.cfg = s.cfg) (hev : t.evOut = s.evOut) : AddsOnlyOk s t :=
  ⟨hcfg, [], by rw [hev, List.append_nil], nofun⟩

/-- Appending admitted events keeps `AddsOnlyOk`. -/
theorem AddsOnlyOk.append {s t u : State} {new : List Event} (h : AddsOnlyOk s t) (hcfg : u.cfg = t.cfg)
    (hev : u.evOut = t.evOut ++ new) (hok : ∀ e ∈ new, EventOk s.cfg e) : AddsOnlyOk s u := by
  obtain ⟨ht, old, hold, hoks⟩ := h
  refine ⟨hcfg.trans ht, old ++ new, by rw [hev, hold, List.append_assoc], fun e he => ?_⟩
  exact (List.mem_append.mp he).elim (hoks e) (hok e)

/-- A publish emits nothing but itself. -/
theorem eq_pub_of_mem_eventIfNew {e : SinkEn} {r : LastRegs} {p : Pub} {ev : Event} (h : ev ∈ eventIfNew e r p) :
    ev = .pub p := by
  unfold eventIfNew at h
  split at h
  · exact List.mem_singleton.mp h
  · cases h

theorem addsOnlyOk_kept (s : State) : KeptByUpdates (AddsOnlyOk s) where
  buf _ _ h := h
  flag _ _ h := h
  warn _ _ h := h.append rfl rfl fun _ he => by
    rw [List.mem_singleton.mp he]
    exact ⟨trivial, fun _ _ => trivial⟩
  pub t p hp h := by
    have hok : EventOk s.cfg (.pub p) := h.1 ▸ hp
    refine h.append (publish_cfg p t) (by rw [publish_eq]) fun e he => ?_
    rw [eq_pub_of_mem_eventIfNew he]
    exact hok
  draw _ h := h

/-- Settles O42: every publish an operation makes is one the configuration admits, drawn or not. -/
theorem publishedIntegersAreNonnegative : Obligations.PublishedIntegersAreNonnegative := by
  intro s t h
  have hok : AddsOnlyOk s t := by
    rcases step_cases h with ⟨-, rfl⟩ | ⟨rest, -, rfl⟩ | ⟨b, rest, -, hexec⟩
    · exact addsOnlyOk_of_evOut_eq rfl rfl
    · exact addsOnlyOk_of_evOut_eq rfl rfl
    · have hs : AddsOnlyOk s { s with input := rest } := addsOnlyOk_of_evOut_eq rfl rfl
      exact exec_kept (addsOnlyOk_kept s) hs hexec
  exact hok.newEvents_ok

end Sys2Proof.Machine
end

section
/-! PROOF. The markers JsonCheck bounds (spec 40_reassembler.md R114, R118). -/

namespace Sys2Proof

/-- A slice inside the front part does not see what is appended. -/
theorem slice_append_left {m x : Bytes} {i j : Nat} (hj : j ≤ m.length) : slice (m ++ x) i j = slice m i j := by
  unfold slice
  by_cases hi : i ≤ m.length
  · rw [List.drop_append_of_le_length hi, List.take_append_of_le_length (by rw [List.length_drop]; omega)]
  · rw [show j - i = 0 by omega, List.take_zero, List.take_zero]

/-- A string found at an index ends inside the string it is found in. -/
theorem le_length_of_slice_eq {m p : Bytes} {i : Nat} (hp : p ≠ []) (h : slice m i (i + p.length) = p) :
    i + p.length ≤ m.length := by
  have hpos := List.length_pos_of_ne_nil hp
  have hlen := congrArg List.length h
  rw [slice_eq_take_drop, List.length_take, List.length_drop] at hlen
  omega

/-- Settles O11. -/
theorem jsonCheckBoundsTheFirstMarkers : Obligations.JsonCheckBoundsTheFirstMarkers := by
  intro m i j
  rw [jsonBounds_eq_some, find_eq_some (by decide), find_eq_some (by decide), jsonOpen_length, jsonClose_length]
  constructor
  · rintro ⟨⟨-, hopen, hfirst⟩, hj, hclose, hnext⟩
    exact ⟨hopen, fun n hn => hfirst n (Nat.zero_le n) hn, hj, hclose, hnext⟩
  · rintro ⟨hopen, hfirst, hj, hclose, hnext⟩
    exact ⟨⟨Nat.zero_le i, hopen, fun n _ hn => hfirst n hn⟩, hj, hclose, hnext⟩

/-- Settles O12: a closing pair that ends before the byte appended would have bounded the same record in
the buffer without that byte. -/
theorem completedJsonRecordEndsTheBuffer : Obligations.CompletedJsonRecordEndsTheBuffer := by
  intro m b i j hnone hsome
  obtain ⟨hopen, -, hij, hclose, -⟩ := (jsonCheckBoundsTheFirstMarkers _ i j).mp hsome
  have hend : j + 2 ≤ (m ++ [b]).length := le_length_of_slice_eq (p := jsonClose) (by decide) hclose
  by_contra hne
  have hinside : j + 2 ≤ m.length := by
    rw [List.length_append, List.length_singleton] at hend hne
    omega
  rw [slice_append_left (by omega)] at hopen hclose
  exact jsonBounds_eq_none.mp hnone i j hopen hij hclose

end Sys2Proof
end

section
/-! PROOF. The four byte classes (spec 40_reassembler.md R110 to R117): what each FEED operation answers,
and that it answers a next state. -/

namespace Sys2Proof.Machine

/-- No record or mode-code operation stops (60_exceptions.md R220). -/
theorem exec_decoder_total {i : Instr} (hi : sourceOf i ≠ .byteIn) (s : State) : ∃ t, exec i s = .next t := by
  obtain ⟨last, flag, draws, new, -, heff⟩ := exec_effect hi s
  exact ⟨_, heff s.buf s.input s.evOut⟩

theorem flushBoundary_idle {s : State} (h : s.buf = []) : flushBoundary s = .next s := by
  simp [flushBoundary, h, Memory.len]

theorem execFeedLt_idle {s : State} (h : s.buf = []) : execFeedLt s = .next (bufSetLT s) := by
  simp [execFeedLt, h, Memory.len]

/-- The byte that completes a JSON record runs it and clears the buffer (R115). -/
theorem execFeedOther_json {b : Byte} {s : State} {i j : Nat} (h : jsonBounds (s.buf ++ [b]) = some (i, j)) :
    execFeedOther b s = mapNext bufClear (exec (.decJson (slice (s.buf ++ [b]) i (j + 2))) (bufAppend b s)) := by
  rw [execFeedOther, bufAppend_buf, h]
  rfl

/-- A byte that completes none is kept, unless the buffer is then past BUF_CAP (R116, R117). -/
theorem execFeedOther_plain {b : Byte} {s : State} (h : jsonBounds (s.buf ++ [b]) = none) :
    execFeedOther b s
      = .next (withBuf (if s.cfg.bufCap < s.buf.length + 1 then [] else s.buf ++ [b]) s) := by
  have hlen : Memory.len (s.buf ++ [b]) = s.buf.length + 1 := List.length_append
  rw [execFeedOther, bufAppend_buf, h]
  simp only [overflowGuard, bufAppend_buf, bufAppend_cfg, hlen]
  split <;> rfl

/-- Both branches of CR and LF. -/
theorem flushBoundary_spec (s : State) :
    (s.buf = [] → flushBoundary s = .next s)
    ∧ (s.buf ≠ [] → ∃ t, exec (decodeFlushed s.cfg.hexLeadRequired s.buf) s = .next t
        ∧ flushBoundary s = .next (bufClear t)) := by
  refine ⟨flushBoundary_idle, fun hbuf => ?_⟩
  obtain ⟨t, ht⟩ := exec_decoder_total (decodeFlushed_not_byteIn s.cfg.hexLeadRequired s.buf) s
  exact ⟨t, ht, by rw [flushBoundary_pending hbuf, ht]; rfl⟩

/-- Settles O7. -/
theorem feedCrFlushesOneRecord : Obligations.FeedCrFlushesOneRecord := ⟨rfl, flushBoundary_spec⟩

/-- Settles O8. -/
theorem feedLfFlushesOneRecord : Obligations.FeedLfFlushesOneRecord := ⟨rfl, flushBoundary_spec⟩

/-- Settles O9. -/
theorem feedLtFlushesAndStartsAFrame : Obligations.FeedLtFlushesAndStartsAFrame := by
  refine ⟨rfl, fun s => ⟨execFeedLt_idle, fun hbuf => ?_⟩⟩
  obtain ⟨t, ht⟩ := exec_decoder_total (decodeFlushed_not_byteIn s.cfg.hexLeadRequired s.buf) s
  have hlt : execFeedLt s = .next (bufSetLT t) := by rw [execFeedLt_pending hbuf, ht]; rfl
  exact ⟨t, ht, hlt⟩

/-- Settles O10. -/
theorem feedOtherAppendsThenChecks : Obligations.FeedOtherAppendsThenChecks := by
  intro s b
  cases hjson : jsonBounds (s.buf ++ [b]) with
  | some ij =>
    obtain ⟨i, j⟩ := ij
    obtain ⟨t, ht⟩ := exec_decoder_total (i := .decJson (slice (s.buf ++ [b]) i (j + 2))) nofun (bufAppend b s)
    have hother : execFeedOther b s = .next (bufClear t) := by rw [execFeedOther_json hjson, ht]; rfl
    exact ⟨t, ht, hother⟩
  | none =>
    have hother := execFeedOther_plain hjson
    split at hother
    case isTrue hover => exact hother.trans (by rw [if_pos hover]; rfl)
    case isFalse hfits => exact hother.trans (by rw [if_neg hfits]; rfl)

/-- No operation stops (R123). -/
theorem exec_total (i : Instr) (s : State) : ∃ t, exec i s = .next t := by
  by_cases hi : sourceOf i = .byteIn
  · obtain ⟨hidle, hpending⟩ := flushBoundary_spec s
    cases i
    case feedCr | feedLf =>
      by_cases hbuf : s.buf = []
      · exact ⟨_, hidle hbuf⟩
      · exact (hpending hbuf).imp' (bufClear ·) fun t h => h.2
    case feedLt =>
      obtain ⟨-, hlt⟩ := feedLtFlushesAndStartsAFrame
      by_cases hbuf : s.buf = []
      · exact ⟨_, (hlt s).1 hbuf⟩
      · exact ((hlt s).2 hbuf).imp' (bufSetLT ·) fun t h => h.2
    case feedOther b =>
      have hother := feedOtherAppendsThenChecks s b
      split at hother
      · exact hother.imp' (bufClear ·) fun t h => h.2
      · exact ⟨_, hother⟩
    all_goals cases hi
  · exact exec_decoder_total hi s

end Sys2Proof.Machine
end

section
/-! PROOF. The invariants of the pending buffer over a step (spec 40_reassembler.md R120, 10_state.md R30). -/

namespace Sys2Proof.Machine

/-- The four rows of the byte table (30_encoding.md R71). -/
theorem decodeByte_cases (b : Byte) :
    decodeByte b = .feedCr ∨ decodeByte b = .feedLf ∨ decodeByte b = .feedLt
    ∨ plainByte b = true ∧ decodeByte b = .feedOther b := by
  by_cases hb : plainByte b = true
  · exact .inr (.inr (.inr ⟨hb, decodeByte_of_plain hb⟩))
  · unfold decodeByte
    cases hclass : classOf b with
    | cr => exact .inl rfl
    | lf => exact .inr (.inl rfl)
    | lt => exact .inr (.inr (.inl rfl))
    | other => exact absurd (decide_eq_true hclass) hb

/-- The invariants (a) to (d) of R120 on a state, under its own BUF_CAP. -/
def BufOk (s : State) : Prop := BufInvariant s.cfg.bufCap s.buf

theorem bufOk_iff (s : State) : BufOk s ↔ Memory.wf s.cfg.bufCap s.buf = true := (wf_iff _ _).symm

theorem bufOk_of_nil {s : State} (h : s.buf = []) : BufOk s := by
  rw [bufOk_iff, h]
  exact wf_nil _

/-- A boundary leaves the empty buffer. -/
theorem flushBoundary_bufOk {s t : State} (h : flushBoundary s = .next t) : BufOk t :=
  bufOk_of_nil ((phase_eq_idle_iff t).mp (flushBoundary_phase h))

/-- `<` leaves the one byte `<`, which fits where any byte does. -/
theorem execFeedLt_bufOk {s t : State} (hcap : 1 ≤ s.cfg.bufCap) (h : execFeedLt s = .next t) : BufOk t := by
  have hcfg : t.cfg = s.cfg := exec_cfg (i := .feedLt) h
  rw [bufOk_iff, execFeedLt_buf h, hcfg]
  exact wf_setLT hcap

/-- A plain byte leaves the empty buffer where a record completes (d) or the buffer overflows (a), else it
stands at an index where it breaks neither (b) nor (c). -/
theorem execFeedOther_bufOk {b : Byte} {s t : State} (hb : plainByte b = true) (hs : BufOk s)
    (h : execFeedOther b s = .next t) : BufOk t := by
  rcases execFeedOther_cases h with ⟨i, j, u, -, -, rfl⟩ | ⟨-, -, rfl⟩ | ⟨hjson, hfits, rfl⟩
  · exact bufOk_of_nil rfl
  · exact bufOk_of_nil rfl
  · rw [bufOk_iff] at hs ⊢
    have hlen : Memory.len (Memory.append s.buf b) ≤ s.cfg.bufCap := by
      rwa [Memory.len, Memory.append, List.length_append, List.length_singleton]
    exact wf_append hs hb hjson hlen

theorem exec_decodeByte_bufOk {b : Byte} {s t : State} (hcap : 1 ≤ s.cfg.bufCap) (hs : BufOk s)
    (h : exec (decodeByte b) s = .next t) : BufOk t := by
  rcases decodeByte_cases b with hb | hb | hb | ⟨hplain, hb⟩ <;> rw [hb] at h
  · exact flushBoundary_bufOk h
  · exact flushBoundary_bufOk h
  · exact execFeedLt_bufOk hcap h
  · exact execFeedOther_bufOk hplain hs h

theorem step_bufOk {s t : State} (hcap : 1 ≤ s.cfg.bufCap) (hs : BufOk s) (h : step s = .next t) : BufOk t := by
  rcases step_cases h with ⟨-, rfl⟩ | ⟨rest, -, rfl⟩ | ⟨b, rest, -, hexec⟩
  · exact hs
  · exact bufOk_of_nil rfl
  · exact exec_decodeByte_bufOk (s := { s with input := rest }) hcap hs hexec

/-- ACC_HEX is a buffer that starts with `<` (R30). -/
theorem phase_eq_accHex_iff (s : State) : s.phase = .accHex ↔ s.buf.head? = some chLT := by
  unfold State.phase
  cases s.buf with
  | nil => simp [Memory.phase]
  | cons c m => by_cases hc : c = chLT <;> simp [Memory.phase, hc]

/-- ACC_OTHER is any other buffer that holds a byte (R30). -/
theorem phase_eq_accOther_iff (s : State) : s.phase = .accOther ↔ s.buf ≠ [] ∧ s.buf.head? ≠ some chLT := by
  rw [ne_eq, ne_eq, ← phase_eq_idle_iff, ← phase_eq_accHex_iff]
  cases s.phase <;> simp

/-- Settles O13: the invariant over each kind of step, and the phase of any buffer. -/
theorem stepKeepsTheBufferInvariants : Obligations.StepKeepsTheBufferInvariants :=
  fun _ t hcap hs h => ⟨step_bufOk hcap hs h, phase_eq_idle_iff t, phase_eq_accHex_iff t, phase_eq_accOther_iff t⟩

/-- Settles O2. -/
theorem resetStateIsLegal : Obligations.ResetStateIsLegal :=
  ⟨(wf_iff _ _).mp (reset_wf resetConfig), reset_wf resetConfig, rfl, rfl, rfl, rfl⟩

end Sys2Proof.Machine
end

section
/-! PROOF. Operations and the ports (spec 20_memory.md R57, 40_reassembler.md R121, R123). -/

namespace Sys2Proof.Machine

/-- From other inputs and other past events `f` answers the same next state, with those inputs, and with
its own new events after those past ones. -/
def IgnoresPorts (f : State → Host.Outcome State Fault Refusal) (s : State) : Prop :=
  ∀ t inp evs, f s = .next t →
    f (withPorts s.buf inp evs s) = .next (withPorts t.buf inp (evs ++ newEvents s t) t)

theorem newEvents_of_append {s t : State} {new : List Event} (h : t.evOut = s.evOut ++ new) : newEvents s t = new := by
  rw [newEvents, h, List.drop_left]

/-- An effect that is the same whatever stands on the ports. -/
theorem HasEffect.ignoresPorts {n : Nat} {f : State → Host.Outcome State Fault Refusal} {s : State}
    (hf : HasEffect n f s) : IgnoresPorts f s := by
  obtain ⟨last, flag, draws, new, -, heff⟩ := hf
  intro t inp evs h
  have hself : f s = _ := heff s.buf s.input s.evOut
  rw [h] at hself
  cases hself
  rw [heff, newEvents_of_append rfl]
  rfl

/-- Writing the buffer afterwards. -/
theorem IgnoresPorts.withBuf_after {f : State → Host.Outcome State Fault Refusal} {s : State}
    (hf : IgnoresPorts f s) (m : Memory) : IgnoresPorts (fun u => mapNext (withBuf m) (f u)) s := by
  intro t inp evs h
  obtain ⟨u, hu, rfl⟩ := mapNext_next.mp h
  exact mapNext_next.mpr ⟨_, hf u inp evs hu, rfl⟩

/-- Writing the buffer and no more. -/
theorem withBuf_ignoresPorts (m : Memory) (s : State) : IgnoresPorts (fun u => .next (withBuf m u)) s := by
  intro t inp evs h
  cases h
  have hnew : newEvents s (withBuf m s) = [] := newEvents_of_append (List.append_nil s.evOut).symm
  rw [hnew, List.append_nil]
  rfl

/-- Writing the buffer first. -/
theorem IgnoresPorts.after_withBuf {f : State → Host.Outcome State Fault Refusal} {s : State} {m : Memory}
    (hf : IgnoresPorts f (withBuf m s)) : IgnoresPorts (fun u => f (withBuf m u)) s := hf

/-- What `f` is on every state that differs from `s` in the ports alone is all that counts. -/
theorem IgnoresPorts.congr {f g : State → Host.Outcome State Fault Refusal} {s : State} (hg : IgnoresPorts g s)
    (h : ∀ inp evs, f (withPorts s.buf inp evs s) = g (withPorts s.buf inp evs s)) : IgnoresPorts f s := by
  intro t inp evs hf
  have hself : f s = g s := h s.input s.evOut
  rw [h]
  exact hg t inp evs (hself.symm.trans hf)

theorem exec_decoder_ignoresPorts {i : Instr} (hi : sourceOf i ≠ .byteIn) (s : State) : IgnoresPorts (exec i) s :=
  (exec_effect hi s).ignoresPorts

theorem exec_decodeFlushed_ignoresPorts (s : State) :
    IgnoresPorts (exec (decodeFlushed s.cfg.hexLeadRequired s.buf)) s :=
  exec_decoder_ignoresPorts (decodeFlushed_not_byteIn _ _) s

theorem flushBoundary_ignoresPorts (s : State) : IgnoresPorts flushBoundary s := by
  by_cases hbuf : s.buf = []
  · exact (nothing_effect 0 s).ignoresPorts.congr fun _ _ => flushBoundary_idle hbuf
  · exact ((exec_decodeFlushed_ignoresPorts s).withBuf_after []).congr fun _ _ => flushBoundary_pending hbuf

theorem execFeedLt_ignoresPorts (s : State) : IgnoresPorts execFeedLt s := by
  by_cases hbuf : s.buf = []
  · exact (withBuf_ignoresPorts [chLT] s).congr fun _ _ => execFeedLt_idle hbuf
  · exact ((exec_decodeFlushed_ignoresPorts s).withBuf_after [chLT]).congr fun _ _ => execFeedLt_pending hbuf

theorem execFeedOther_ignoresPorts (b : Byte) (s : State) : IgnoresPorts (execFeedOther b) s := by
  cases hjson : jsonBounds (s.buf ++ [b]) with
  | some ij =>
    obtain ⟨i, j⟩ := ij
    have hrecord := exec_decoder_ignoresPorts (i := .decJson (slice (s.buf ++ [b]) i (j + 2))) nofun
      (withBuf (s.buf ++ [b]) s)
    exact (hrecord.after_withBuf.withBuf_after []).congr fun _ _ => execFeedOther_json hjson
  | none =>
    have hplain := withBuf_ignoresPorts (if s.cfg.bufCap < s.buf.length + 1 then [] else s.buf ++ [b]) s
    exact hplain.congr fun _ _ => execFeedOther_plain hjson

/-- Settles O52: a FEED operation writes the buffer around a decoder operation, whose effect is the same
whatever stands on the ports. -/
theorem operationsIgnoreThePorts : Obligations.OperationsIgnoreThePorts := by
  intro i s t inp evs h
  by_cases hi : sourceOf i = .byteIn
  · cases i
    case feedCr | feedLf => exact flushBoundary_ignoresPorts s t inp evs h
    case feedLt => exact execFeedLt_ignoresPorts s t inp evs h
    case feedOther b => exact execFeedOther_ignoresPorts b s t inp evs h
    all_goals cases hi
  · exact exec_decoder_ignoresPorts hi s t inp evs h

/-- Settles O3. -/
theorem stepRunsTheDecodedByte : Obligations.StepRunsTheDecodedByte := by
  intro s b rest hin
  exact ⟨rfl, by rw [step, fetch, hin]⟩

end Sys2Proof.Machine
end

section
/-! PROOF. Feeding in chunks (spec 40_reassembler.md R121): bytes delivered later change nothing about the
steps that take the bytes before them. -/

namespace Sys2Proof.Machine

theorem deliver_nil (s : State) : deliver [] s = s := by
  rw [deliver, List.map_nil, List.append_nil]

/-- Bytes delivered after what an operation runs on stay where they are. -/
theorem exec_deliver {i : Instr} {s t : State} (h : exec i s = .next t) (later : Bytes) :
    exec i (deliver later s) = .next (deliver later t) := by
  rw [deliver, deliver, exec_input h, operationsIgnoreThePorts i s t _ s.evOut h, ← (exec_addsAtMost h).1]

/-- What already stands on the inputs is taken the same way whatever is delivered after it. -/
theorem step_deliver {s : State} {x : Stimulus} {rest : List Stimulus} (hin : s.input = x :: rest) :
    ∃ t, t.input = rest ∧ ∀ later, step (deliver later s) = .next (deliver later t) := by
  cases x with
  | rst =>
    refine ⟨assertReset { s with input := rest }, rfl, fun later => ?_⟩
    rw [step, fetch, deliver, hin]
    rfl
  | byte b =>
    obtain ⟨t, ht⟩ := exec_total (decodeByte b) { s with input := rest }
    refine ⟨t, exec_input ht, fun later => ?_⟩
    have hhead : (deliver later s).input = .byte b :: (rest ++ later.map .byte) := by rw [deliver, hin]; rfl
    exact (stepRunsTheDecodedByte _ b _ hhead).2.trans (exec_deliver ht later)

theorem step_total (s : State) : ∃ t, step s = .next t := by
  cases hin : s.input with
  | nil => exact ⟨s, by rw [step, fetch, hin]⟩
  | cons x rest =>
    obtain ⟨t, -, hstep⟩ := step_deliver hin
    exact ⟨_, by rw [← deliver_nil s, hstep []]⟩

/-- RDX takes all that stands on its inputs, and the same way whatever is delivered after it. -/
theorem run_input_deliver (s : State) :
    ∃ t, t.input = [] ∧ ∀ later, Sys2Proof.core.run s.input.length (deliver later s) = .next (deliver later t) := by
  generalize hin : s.input = inp
  induction inp generalizing s with
  | nil => exact ⟨s, hin, fun _ => rfl⟩
  | cons x rest ih =>
    obtain ⟨u, hu, hstep⟩ := step_deliver hin
    obtain ⟨t, ht, hrun⟩ := ih u hu
    exact ⟨t, ht, fun later => (run_succ (hstep later)).trans (hrun later)⟩

/-- A run whose first part goes on. -/
theorem run_add {m n : Nat} {s t : State} (h : Sys2Proof.core.run m s = .next t) :
    Sys2Proof.core.run (m + n) s = Sys2Proof.core.run n t := by
  induction m generalizing s with
  | zero => cases h; rw [Nat.zero_add]
  | succ m ih =>
    obtain ⟨u, hu⟩ := step_total s
    rw [run_succ hu] at h
    rw [Nat.add_right_comm, run_succ hu, ih h]

theorem deliver_deliver (xs ys : Bytes) (s : State) : deliver ys (deliver xs s) = deliver (xs ++ ys) s := by
  simp only [deliver, List.map_append, List.append_assoc]

/-- A drain takes all that stands on the inputs, and what is delivered then is drained as if it had been
there from the start. -/
theorem drain_then_deliver (s : State) :
    ∃ t, drain s = .next t ∧ t.input = [] ∧ ∀ later, drain (deliver later s) = drain (deliver later t) := by
  obtain ⟨t, ht, hrun⟩ := run_input_deliver s
  refine ⟨t, ?_, ht, fun later => ?_⟩
  · have hnow := hrun []
    rwa [deliver_nil, deliver_nil] at hnow
  · have hlen : (deliver later s).input.length = s.input.length + (deliver later t).input.length := by
      simp [deliver, ht]
    rw [drain, hlen, run_add (hrun later)]
    rfl

/-- Chunks fed in order are one chunk (R121). -/
theorem feedChunks_eq_drain (chunks : List Bytes) {s : State} (hin : s.input = []) :
    feedChunks chunks s = drain (deliver chunks.flatten s) := by
  induction chunks generalizing s with
  | nil => rw [List.flatten_nil, deliver_nil, drain, hin]; rfl
  | cons c cs ih =>
    obtain ⟨t, hdrain, ht, hlater⟩ := drain_then_deliver (deliver c s)
    rw [feedChunks, hdrain, List.flatten_cons, ← deliver_deliver, hlater]
    exact ih ht

/-- Settles O15: the chunks, the single bytes and the whole are all drained as one. -/
theorem incrementalFeedEquivalence : Obligations.IncrementalFeedEquivalence := by
  intro s xs chunks hin hxs
  obtain ⟨t, hdrain, -, -⟩ := drain_then_deliver (deliver xs s)
  have hbytes : (xs.map fun b => [b]).flatten = xs := by rw [← List.flatMap_def, List.flatMap_singleton']
  exact ⟨t, by rw [feedChunks_eq_drain chunks hin, hxs, hdrain],
    by rw [feedChunks_eq_drain _ hin, hbytes, hdrain], hdrain⟩

end Sys2Proof.Machine
end

section
/-! PROOF. The hex dispatcher on the records it drops, and on those without their lead (spec
41_record_decoder.md R141, R146, R150 to R158). -/

namespace Sys2Proof

/-- Settles O20, row by row. -/
theorem ignoredHeartbeatsHaveNoEffect : Obligations.IgnoredHeartbeatsHaveNoEffect := by
  intro lead s x
  exact ⟨⟨decodeFlushed_pattern_append lead (row := .ign20123) nofun (Nat.zero_le _), rfl⟩,
    ⟨decodeFlushed_pattern_append lead (row := .ign2071) nofun (Nat.zero_le _), rfl⟩,
    ⟨decodeFlushed_pattern_append lead (row := .ign2010) nofun (Nat.zero_le _), rfl⟩,
    ⟨decodeFlushed_pattern_append lead (row := .ign30123) nofun (Nat.zero_le _), rfl⟩,
    ⟨decodeFlushed_pattern_append lead (row := .ign40123) nofun (Nat.zero_le _), rfl⟩,
    ⟨decodeFlushed_pattern_append lead (row := .ign4071) nofun (Nat.zero_le _), rfl⟩,
    ⟨decodeFlushed_pattern_append lead (row := .ign4010) nofun (Nat.zero_le _), rfl⟩,
    ⟨decodeFlushed_pattern_append lead (row := .ign4033) nofun (Nat.zero_le _), rfl⟩⟩

/-- A record that no row but the last matches is left to DEC_OTHER (R158). -/
theorem hexRow_eq_other {s : Bytes} (h : ∀ row : HexRow, row ≠ .other → ¬ row.Matches s) : hexRow s = .other := by
  by_contra hne
  exact h _ hne (hexRow_matches s)

/-- A record with no heartbeat pattern, and no 2053 or 1053 record of full length, is left to DEC_OTHER. -/
theorem hexRow_eq_other_of_patterns {x : Bytes} (hign : ∀ p ∈ Machine.ignorePatterns, startsWith x p = false)
    (hframe : startsWith x pre2053 = true ∨ startsWith x pre1053 = true → x.length < minFrameLen) :
    hexRow x = .other := by
  have hno : ∀ p ∈ Machine.ignorePatterns, ¬ startsWith x p = true := fun p hp => Bool.eq_false_iff.mp (hign p hp)
  refine hexRow_eq_other fun row hrow ⟨hstart, hlen⟩ => ?_
  cases row with
  | level => exact Nat.not_le_of_lt (hframe (.inl hstart)) hlen
  | mode => exact Nat.not_le_of_lt (hframe (.inr hstart)) hlen
  | other => exact hrow rfl
  | _ => exact hno _ (by decide) hstart

/-- A record with its `<` that no row but the last matches is DEC_OTHER. -/
theorem decodeFlushed_lead_other (lead : Bool) {x : Bytes} (h : hexRow x = .other) :
    decodeFlushed lead (chLT :: x) = .decOther (chLT :: x) :=
  decodeFlushed_of_selectsOther (by rw [selectsOther, stripLead_lead]; exact decide_eq_true h)

theorem stripLead_noLead {c : Byte} (hc : c ≠ chLT) (lead : Bool) (s : Bytes) :
    stripLead lead (c :: s) = if lead then none else some (c :: s) := by
  rw [stripLead, if_neg hc]

/-- Where the `<` is required, a record without it is DEC_OTHER (R141). -/
theorem decodeFlushed_noLead {c : Byte} (hc : c ≠ chLT) (s : Bytes) :
    decodeFlushed true (c :: s) = .decOther (c :: s) :=
  decodeFlushed_of_selectsOther (by rw [selectsOther, stripLead_noLead hc]; rfl)

/-- Settles O22. -/
theorem otherRecordsHaveNoEffect : Obligations.OtherRecordsHaveNoEffect :=
  ⟨fun lead _ hign hframe => decodeFlushed_lead_other lead (hexRow_eq_other_of_patterns hign hframe),
    fun _ x hc => decodeFlushed_noLead hc x, fun _ _ => rfl⟩

/-- A record that starts with the 2053 or the 1053 pattern starts with no heartbeat pattern. -/
theorem startsWith_ignore_of_frame {p q r : Bytes} (hp : p = pre2053 ∨ p = pre1053)
    (hq : q ∈ Machine.ignorePatterns) : startsWith (p ++ r) q = false := by
  have hpmem : p ∈ hexPatterns := by rcases hp with rfl | rfl <;> decide
  have hqmem : q ∈ hexPatterns := by
    revert q
    decide
  have hpign : p ∉ Machine.ignorePatterns := by rcases hp with rfl | rfl <;> decide
  refine Bool.eq_false_iff.mpr fun hstart => hpign ?_
  rw [eq_of_startsWith_patterns hpmem hqmem (startsWith_append p r) hstart]
  exact hq

end Sys2Proof

namespace Sys2Proof.Machine

/-- Settles O23. -/
theorem recordWithoutLeadIsDropped : Obligations.RecordWithoutLeadIsDropped := by
  intro s c r hlead hbuf hc
  refine boundary_of_no_effect (by rw [hbuf]; exact List.cons_ne_nil _ _) ?_
  rw [hlead, hbuf, decodeFlushed_noLead hc]
  rfl

/-- Settles O25: neither frame row takes the record, and no heartbeat pattern is one of theirs. -/
theorem shortFrameIsDropped : Obligations.ShortFrameIsDropped := by
  intro s p r hp hlen hbuf
  have hother : hexRow (p ++ r) = .other :=
    hexRow_eq_other_of_patterns (fun q hq => startsWith_ignore_of_frame hp hq) fun _ => hlen
  have hdecode : decodeFlushed s.cfg.hexLeadRequired s.buf = .decOther s.buf := by
    rw [hbuf]
    exact decodeFlushed_lead_other _ hother
  obtain ⟨hcr, -, -⟩ := boundary_of_no_effect (s := s) (by rw [hbuf]; exact List.cons_ne_nil _ _)
    (by rw [hdecode]; rfl)
  exact ⟨hdecode, hcr⟩

/-- Where the `<` is not required, a record does the same with and without it: both have one stripped
form, and DEC_OTHER, the one row that keeps the whole record, reads none of it. -/
theorem exec_decodeFlushed_noLead {c : Byte} (hc : c ≠ chLT) (r : Bytes) (s : State) :
    exec (decodeFlushed false (c :: r)) s = exec (decodeFlushed false (chLT :: c :: r)) s := by
  have hstrip : stripLead false (c :: r) = some (c :: r) := stripLead_noLead hc false r
  simp only [decodeFlushed, hstrip, stripLead_lead, decodeStripped]
  cases hexRow (c :: r) <;> rfl

/-- Settles O24: the same effect once the buffer is cleared. -/
theorem recordWithoutLeadRunsWhenAllowed : Obligations.RecordWithoutLeadRunsWhenAllowed := by
  intro s c r hlead hc
  have hcr (m : Memory) (hm : m ≠ []) :
      exec .feedCr { s with buf := m } = mapNext bufClear (exec (decodeFlushed false m) { s with buf := m }) := by
    rw [← hlead]
    exact flushBoundary_pending (s := { s with buf := m }) hm
  calc exec .feedCr { s with buf := c :: r }
      = mapNext bufClear (exec (decodeFlushed false (c :: r)) { s with buf := c :: r }) := hcr _ (List.cons_ne_nil _ _)
    _ = mapNext bufClear (exec (decodeFlushed false (c :: r)) { s with buf := chLT :: c :: r }) :=
        (exec_effect (decodeFlushed_not_byteIn false _) s).bufClear_eq _ _
    _ = mapNext bufClear (exec (decodeFlushed false (chLT :: c :: r)) { s with buf := chLT :: c :: r }) := by
        rw [exec_decodeFlushed_noLead hc]
    _ = exec .feedCr { s with buf := chLT :: c :: r } := (hcr _ (List.cons_ne_nil _ _)).symm

end Sys2Proof.Machine
end

section
/-! PROOF. The payload pair and the level frame (spec 41_record_decoder.md R140, R144, R145, R147). -/

namespace Sys2Proof.Machine

/-- Settles O16, range by range. -/
theorem hexDigitValues : Obligations.HexDigitValues := by
  intro c
  refine ⟨fun hdigit => ?_, fun hupper => ?_, fun hlower => ?_, fun hdigit hupper hlower => ?_⟩
  · rw [hv, if_pos hdigit]
  · rw [hv, if_neg (by omega), if_pos hupper]
  · rw [hv, if_neg (by omega), if_neg (by omega), if_pos hlower]
  · rw [hv, if_neg hdigit, if_neg hupper, if_neg hlower]

/-- Two hex digits are read as their byte, with no draw (R145). -/
theorem hex2_of_digits {c1 c2 : Byte} {h l : Nat} (h1 : hv c1 = some h) (h2 : hv c2 = some l) (s : State) :
    hex2 c1 c2 s = (some (BitVec.ofNat 8 (16 * h + l)), s) := by
  rw [hex2, hexPairValue_of_digits h1 h2]

/-- The byte two hex digits spell is 16 times the first plus the second (R145). -/
theorem toNat_of_digits {c1 c2 : Byte} {h l : Nat} (h1 : hv c1 = some h) (h2 : hv c2 = some l) :
    (BitVec.ofNat 8 (16 * h + l)).toNat = 16 * h + l := by
  have hh := hv_lt h1
  have hl := hv_lt h2
  rw [BitVec.toNat_ofNat, Nat.mod_eq_of_lt (by omega)]

/-- All that a malformed pair does (R145): it answers what the relation admits, at a draw count that a
single answer leaves as it is. -/
theorem hex2_of_malformed {c1 c2 : Byte} (hmal : hv c1 = none ∨ hv c2 = none) (s : State) :
    ∃ (r : Option Byte) (d : Nat), hex2 c1 c2 s = (r, { s with draws := d })
      ∧ hex2Allows (hex2Answers s.cfg.hex2Relation c1 c2) r = true
      ∧ ∀ q, hex2Answers s.cfg.hex2Relation c1 c2 = .these q [] → r = q ∧ d = s.draws := by
  rw [hex2, hexPairValue_eq_none.mpr hmal]
  simp only [hex2Malformed]
  split
  case h_1 r hsingle =>
    exact ⟨r, s.draws, rfl, by rw [hsingle]; exact decide_eq_true List.mem_cons_self,
      fun q hq => by rw [hsingle] at hq; cases hq; exact ⟨rfl, rfl⟩⟩
  case h_2 hseveral =>
    exact ⟨_, s.draws + 1, rfl, hex2Pick_allows _ _, fun q hq => (hseveral q hq).elim⟩

/-- All that a publish on LEVEL does. -/
theorem publish_level_eq (v : IntW) (s : State) :
    publish (.level v) s =
      if s.last.level = some v then s
      else { s with
        last := { s.last with level := some v }
        evOut := s.evOut ++ if s.cfg.sinkEn.level then [Event.pub (.level v)] else [] } := by
  by_cases hheld : s.last.level = some v
  · have hholds : holds s.last (.level v) = true := decide_eq_true hheld
    rw [publish, if_pos hholds, if_pos hheld]
  · rw [publish_eq, if_neg hheld]
    have hnew : eventIfNew s.cfg.sinkEn s.last (.level v) = if s.cfg.sinkEn.level then [.pub (.level v)] else [] := by
      simp [eventIfNew, regPub, Pub.channel, sinkEnabled, hheld]
    rw [hnew]
    rfl

/-- The filter lets nothing through twice (R140). -/
theorem publish_publish (p : Pub) (s : State) : publish p (publish p s) = publish p s := by
  have hheld : holds (publish p s).last p = true := by
    rw [holds_iff, publish_eq]
    exact regPub_store_same _ _
  generalize publish p s = t at hheld ⊢
  rw [publish, if_pos hheld]

/-- A level frame of two hex digits publishes their byte, whatever its tail (R147). -/
theorem exec_decLevel2053_digits {c1 c2 : Byte} {h l : Nat} (h1 : hv c1 = some h) (h2 : hv c2 = some l)
    (tail : Bytes) (s : State) :
    exec (.decLevel2053 c1 c2 tail) s
      = .next (publish (.level (zextInt s.cfg.intW (BitVec.ofNat 8 (16 * h + l)))) s) :=
  congrArg (fun answer => Host.Outcome.next (levelFrame answer)) (hex2_of_digits h1 h2 s)

/-- Settles O17. -/
theorem levelFramePublishesItsPayload : Obligations.LevelFramePublishesItsPayload := by
  intro s c1 c2 tail h l h1 h2
  have hbyte := toNat_of_digits h1 h2
  refine ⟨zextInt s.cfg.intW (BitVec.ofNat 8 (16 * h + l)), rfl, fun hw => ?_, ?_, ?_⟩
  · rw [zextInt_eq hw, hbyte]
    push_cast
    rfl
  · have hh := hv_lt h1
    have hl := hv_lt h2
    omega
  · rw [exec_decLevel2053_digits h1 h2, publish_level_eq]

/-- Settles O18, by the answer the pair gets. -/
theorem malformedLevelPayload : Obligations.MalformedLevelPayload := by
  intro s c1 c2 tail hmal
  obtain ⟨r, d, hread, hallows, hsingle⟩ := hex2_of_malformed hmal s
  have hexec : exec (.decLevel2053 c1 c2 tail) s = .next (levelFrame (r, { s with draws := d })) :=
    congrArg (fun answer => Host.Outcome.next (levelFrame answer)) hread
  refine ⟨r, d, hallows, hsingle, ?_⟩
  rw [hexec]
  cases r with
  | none => rfl
  | some v =>
    rw [levelFrame, publish_eq]
    rfl

/-- Settles O19. -/
theorem repeatedLevelFrameIsSilent : Obligations.RepeatedLevelFrameIsSilent := by
  intro s t c1 c2 tail tail' hd1 hd2 hexec
  obtain ⟨h, h1⟩ := Option.ne_none_iff_exists'.mp hd1
  obtain ⟨l, h2⟩ := Option.ne_none_iff_exists'.mp hd2
  rw [exec_decLevel2053_digits h1 h2] at hexec
  cases hexec
  rw [exec_decLevel2053_digits h1 h2, publish_cfg, publish_publish]

end Sys2Proof.Machine
end

section
/-! PROOF. The mode table lookup, the classification of a mode byte and the refresh cycle (spec
41_record_decoder.md R160 to R167). -/

namespace Sys2Proof.Machine

/-! ## The lookup -/

/-- The scan is the library's search for the first element with a property. -/
theorem lookup_eq_find? (t : List ModeRow) (m : Byte) : lookup t m = t.find? (fun r => decide (r.code = m)) := by
  induction t with
  | nil => rfl
  | cons r t ih =>
    by_cases hcode : r.code = m
    · simp [lookup, hcode]
    · simp [lookup, hcode, ih]

theorem lookup_eq_some_iff {t : List ModeRow} {m : Byte} {r : ModeRow} :
    lookup t m = some r ↔
      ∃ k, t[k]? = some r ∧ r.code = m ∧ ∀ (n : Nat) (q : ModeRow), n < k → t[n]? = some q → q.code ≠ m := by
  rw [lookup_eq_find?, List.find?_eq_some_iff_getElem]
  constructor
  · rintro ⟨hcode, k, hk, hr, hfirst⟩
    refine ⟨k, List.getElem?_eq_some_iff.mpr ⟨hk, hr⟩, of_decide_eq_true hcode, fun n q hn hq => ?_⟩
    obtain ⟨-, rfl⟩ := List.getElem?_eq_some_iff.mp hq
    simpa using hfirst n hn
  · rintro ⟨k, hk, hcode, hfirst⟩
    obtain ⟨hlt, hr⟩ := List.getElem?_eq_some_iff.mp hk
    refine ⟨decide_eq_true hcode, k, hlt, hr, fun n hn => ?_⟩
    simpa using hfirst n _ hn (List.getElem?_eq_getElem (hn.trans hlt))

theorem lookup_eq_none_iff {t : List ModeRow} {m : Byte} : lookup t m = none ↔ ∀ r ∈ t, r.code ≠ m := by
  simp [lookup_eq_find?]

/-- Settles O28. -/
theorem lookupFindsTheFirstRow : Obligations.LookupFindsTheFirstRow :=
  fun _ _ => ⟨fun _ => lookup_eq_some_iff, lookup_eq_none_iff⟩

/-! ## The classification -/

theorem mem_idleCodes {m : Byte} : m ∈ idleCodes ↔ m = 0x01#8 ∨ m = 0x04#8 ∨ m = 0x08#8 := by
  simp [idleCodes]

/-- An operation that does what its mode byte does classifies as R160 to R167 say. -/
theorem classifiesAs_of_exec {i : Instr} {m : Byte} {s : State} (h : exec i s = .next (classify m s)) :
    ClassifiesAs i m s := by
  refine ⟨lookup s.cfg.modeTable m, nextRefresh m (lookup s.cfg.modeTable m) s.inRefresh,
    resolveMode m (lookup s.cfg.modeTable m) (nextRefresh m (lookup s.cfg.modeTable m) s.inRefresh),
    resolveStatus (lookup s.cfg.modeTable m), resolveSource (lookup s.cfg.modeTable m), rfl, ?_, rfl, rfl, rfl,
    h.trans (congrArg Host.Outcome.next (classify_eq m s))⟩
  simp only [nextRefresh, Option.map_eq_some_iff, mem_idleCodes]

/-- Settles O29. -/
theorem modeCodesClassify : Obligations.ModeCodesClassify :=
  fun _ => ⟨classifiesAs_of_exec rfl, classifiesAs_of_exec rfl, classifiesAs_of_exec rfl, classifiesAs_of_exec rfl,
    classifiesAs_of_exec rfl, classifiesAs_of_exec rfl, fun _ => classifiesAs_of_exec rfl⟩

/-- A mode frame whose payload is a byte runs the byte's mode code (R160). -/
theorem modeFrame_some (m : Byte) (t : State) : modeFrame (some m, t) = exec (decodeMode m) t :=
  (runModeByte_eq m t).trans (exec_decodeMode m t).symm

/-- Settles O30. -/
theorem modeFrameRunsItsModeCode : Obligations.ModeFrameRunsItsModeCode := by
  intro s c1 c2 tail h l h1 h2
  have hmode := exec_decodeMode (BitVec.ofNat 8 (16 * h + l)) s
  have hframe : exec (.decMode1053 c1 c2 tail) s = .next (classify (BitVec.ofNat 8 (16 * h + l)) s) :=
    (congrArg modeFrame (hex2_of_digits h1 h2 s)).trans ((modeFrame_some _ s).trans hmode)
  exact ⟨_, hframe, hmode, classifiesAs_of_exec hframe, toNat_of_digits h1 h2⟩

/-- Settles O31, by the answer the pair gets. -/
theorem malformedModePayload : Obligations.MalformedModePayload := by
  intro s c1 c2 tail hmal
  obtain ⟨r, d, hread, hallows, hsingle⟩ := hex2_of_malformed hmal s
  have hexec : exec (.decMode1053 c1 c2 tail) s = modeFrame (r, { s with draws := d }) := congrArg modeFrame hread
  refine ⟨r, d, hallows, hsingle, hexec.trans ?_⟩
  cases r with
  | none => rfl
  | some m => exact modeFrame_some m _

/-! ## A repeated mode byte -/

/-- The flag update is idempotent: what it does depends on the byte alone. -/
theorem nextRefresh_nextRefresh (m : Byte) (row : Option ModeRow) (old : Bool) :
    nextRefresh m row (nextRefresh m row old) = nextRefresh m row old := by
  unfold nextRefresh
  split
  · rfl
  · split <;> rfl

/-- A publish of what is held emits nothing (R140). -/
theorem eventIfNew_of_holds {e : SinkEn} {r : LastRegs} {p : Pub} (h : regPub r p.channel = some p) :
    eventIfNew e r p = [] :=
  if_neg fun hnew => hnew.1 h

@[simp] theorem classify_cfg (m : Byte) (s : State) : (classify m s).cfg = s.cfg := by rw [classify_eq]

/-- A mode byte whose flag and values are all held already does nothing but warn: only the warning goes by
no filter. -/
theorem classify_of_held {m : Byte} {row : Option ModeRow} {t : State} (hrow : lookup t.cfg.modeTable m = row)
    (hflag : nextRefresh m row t.inRefresh = t.inRefresh) (hraw : t.last.modeRaw = some m)
    (hmode : t.last.modeTxt = some (resolveMode m row t.inRefresh))
    (hstatus : t.last.statusTxt = some (resolveStatus row)) (hsource : t.last.sourceTxt = some (resolveSource row)) :
    classify m t = { t with evOut := t.evOut ++ if row = none then [Event.warn m] else [] } := by
  have hraw' : eventIfNew t.cfg.sinkEn t.last (.modeRaw m) = [] :=
    eventIfNew_of_holds (congrArg (Option.map Pub.modeRaw) hraw)
  have hmode' : eventIfNew t.cfg.sinkEn t.last (.modeTxt (resolveMode m row t.inRefresh)) = [] :=
    eventIfNew_of_holds (congrArg (Option.map Pub.modeTxt) hmode)
  have hstatus' : eventIfNew t.cfg.sinkEn t.last (.statusTxt (resolveStatus row)) = [] :=
    eventIfNew_of_holds (congrArg (Option.map Pub.statusTxt) hstatus)
  have hsource' : eventIfNew t.cfg.sinkEn t.last (.sourceTxt (resolveSource row)) = [] :=
    eventIfNew_of_holds (congrArg (Option.map Pub.sourceTxt) hsource)
  rw [classify_eq, hrow, hflag, hraw', hmode', hstatus', hsource', ← hraw, ← hmode, ← hstatus, ← hsource]
  simp only [List.append_nil]

/-- Settles O34: after its mode byte the state holds every value of the classification. -/
theorem repeatedModeByteOnlyWarns : Obligations.RepeatedModeByteOnlyWarns := by
  intro s t m hexec
  rw [exec_decodeMode] at hexec
  cases hexec
  have hflag := nextRefresh_nextRefresh m (lookup s.cfg.modeTable m) s.inRefresh
  rw [exec_decodeMode, classify_of_held (by rw [classify_cfg]) (by rw [classify_inRefresh, hflag])
    (classify_modeRaw m s) (by rw [classify_modeTxt, classify_inRefresh]) (classify_statusTxt m s)
    (classify_sourceTxt m s)]

/-! ## The refresh cycle -/

/-- A row that is no marker, of no idle code, keeps the flag (R162). -/
theorem nextRefresh_of_plain {m : Byte} {r : ModeRow} (hm : m ∉ idleCodes) (hr : r.isMarker = false) (old : Bool) :
    nextRefresh m (some r) old = old := by
  simp [nextRefresh, hr, hm]

/-- A mapped byte but the fill code shows its row's mode (R163). -/
theorem classify_modeTxt_of_row {m : Byte} {s : State} {r : ModeRow} (hrow : lookup s.cfg.modeTable m = some r)
    (hm : m ≠ refreshFillCode) : (classify m s).last.modeTxt = some (rowModeTxt r.mode) := by
  rw [classify_modeTxt, hrow, resolveMode_of_ne hm]

/-- An idle code's row in a legal table is no marker (30_encoding.md R92). -/
theorem PinnedRows.idle_not_marker {t : List ModeRow} (ht : PinnedRows t) {m : Byte} (hm : m ∈ idleCodes) :
    ∃ r, lookup t m = some r ∧ r.isMarker = false := by
  rcases mem_idleCodes.mp hm with rfl | rfl | rfl
  · obtain ⟨r, hrow, -, -, hmarker⟩ := ht.idle01
    exact ⟨r, hrow, hmarker⟩
  · obtain ⟨r, hrow, -, hmarker⟩ := ht.idle04
    exact ⟨r, hrow, hmarker⟩
  · obtain ⟨r, hrow, -, hmarker⟩ := ht.idle08
    exact ⟨r, hrow, hmarker⟩

/-- The fill code of a legal table has no marker row (30_encoding.md R91). -/
theorem PinnedRows.ne_fill_of_marker {t : List ModeRow} (ht : PinnedRows t) {m : Byte} {r : ModeRow}
    (hrow : lookup t m = some r) (hr : r.isMarker = true) : m ≠ refreshFillCode := by
  rintro rfl
  obtain ⟨q, hfill, -, hq⟩ := ht.fill
  cases hrow.symm.trans hfill
  cases hr.symm.trans hq

/-- The fill code keeps the flag and shows Refresh inside a cycle, Normal outside (R163). -/
theorem classify_fill {s : State} (ht : PinnedRows s.cfg.modeTable) :
    (classify 0x00#8 s).inRefresh = s.inRefresh
    ∧ (classify 0x00#8 s).last.modeTxt = some (if s.inRefresh then .refresh else .normal) := by
  obtain ⟨r, hrow, hmode, hmarker⟩ := ht.fill
  have hflag := nextRefresh_of_plain (m := 0x00#8) (by decide) hmarker s.inRefresh
  refine ⟨by rw [classify_inRefresh, hrow, hflag], ?_⟩
  rw [classify_modeTxt, hrow, hflag]
  cases s.inRefresh with
  | false => rw [resolveMode, hmode]; rfl
  | true => rfl

/-- Settles O32, row by row of the cycle's table. -/
theorem refreshCycleTable : Obligations.RefreshCycleTable := by
  intro s t m hok hexec
  rw [exec_decodeMode] at hexec
  cases hexec
  have ht := (tableOk_iff _).mp hok
  refine ⟨fun r hrow hr => ?marker, fun r hrow hm => ?idle, fun hm => ?fill,
    fun r hrow hr h00 h01 h04 h08 => ?plain, fun hrow => ?unmapped⟩
  case marker =>
    exact ⟨by rw [classify_inRefresh, hrow, nextRefresh_of_marker hr],
      classify_modeTxt_of_row hrow (ht.ne_fill_of_marker hrow hr)⟩
  case idle =>
    have hidle := mem_idleCodes.mpr hm
    obtain ⟨q, hq, hmarker⟩ := ht.idle_not_marker hidle
    cases hrow.symm.trans hq
    have hne : m ≠ refreshFillCode := fun hfill => absurd (hfill ▸ hidle) (by decide)
    exact ⟨by rw [classify_inRefresh, hrow, nextRefresh_of_idle hidle hmarker], classify_modeTxt_of_row hrow hne⟩
  case fill =>
    subst hm
    exact classify_fill ht
  case plain =>
    have hidle : m ∉ idleCodes := fun hm => by rcases mem_idleCodes.mp hm with h | h | h <;> contradiction
    exact ⟨by rw [classify_inRefresh, hrow, nextRefresh_of_plain hidle hr], classify_modeTxt_of_row hrow h00⟩
  case unmapped =>
    have hidle : m ∉ idleCodes := fun hm => by
      obtain ⟨r, hr, -⟩ := ht.idle_not_marker hm
      cases hrow.symm.trans hr
    obtain ⟨hflag, -, htxt, -⟩ := classify_unmapped hidle hrow
    exact ⟨hflag, htxt⟩

end Sys2Proof.Machine
end

section
/-! PROOF. A key pattern and the next quote as cuts of a JSON record, and the text of a field (spec
42_json_decoder.md R191). -/

namespace Sys2Proof

/-- What is cut out of the middle of a string. -/
theorem slice_append_middle (front mid back : Bytes) :
    slice (front ++ (mid ++ back)) front.length (front.length + mid.length) = mid := by
  rw [slice_eq_take_drop, List.drop_left, List.take_left]

/-- A string stands at an index exactly where it can be cut out there. -/
theorem slice_eq_iff_exists_append {s p : Bytes} {i : Nat} (hp : p ≠ []) :
    slice s i (i + p.length) = p ↔ ∃ pre post, s = pre ++ (p ++ post) ∧ pre.length = i := by
  constructor
  · intro h
    have hle := le_length_of_slice_eq hp h
    have hcut := eq_append_drop_of_startsWith (startsWith_iff.mpr ((slice_eq_take_drop s i p.length).symm.trans h))
    exact ⟨s.take i, _, by rw [← hcut, List.take_append_drop], by rw [List.length_take]; omega⟩
  · rintro ⟨pre, post, rfl, rfl⟩
    exact slice_append_middle pre p post

/-- The first place of a string, as a cut. -/
theorem find_zero_eq_some_iff {s p : Bytes} {i : Nat} (hp : p ≠ []) :
    find s p 0 = some i ↔
      ∃ pre post, s = pre ++ (p ++ post) ∧ pre.length = i ∧ ∀ n, n < i → slice s n (n + p.length) ≠ p := by
  rw [find_eq_some hp, slice_eq_iff_exists_append hp]
  constructor
  · rintro ⟨-, ⟨pre, post, hs, hlen⟩, hfirst⟩
    exact ⟨pre, post, hs, hlen, fun n hn => hfirst n (Nat.zero_le n) hn⟩
  · rintro ⟨pre, post, hs, hlen, hfirst⟩
    exact ⟨Nat.zero_le i, ⟨pre, post, hs, hlen⟩, fun n _ hn => hfirst n hn⟩

/-- The first place of a byte, as a cut: what stands before it is free of that byte. -/
theorem findHead_singleton_eq_some_iff (q : Byte) (s : Bytes) (i : Nat) :
    findHead [q] s = some i ↔ ∃ v post, s = v ++ q :: post ∧ q ∉ v ∧ v.length = i := by
  induction s generalizing i with
  | nil => simp [findHead]
  | cons c s ih =>
    by_cases hc : q = c
    · subst hc
      have hhead : findHead [q] (q :: s) = some 0 := by simp [findHead]
      rw [hhead]
      constructor
      · rintro ⟨⟩
        exact ⟨[], s, rfl, List.not_mem_nil, rfl⟩
      · rintro ⟨v, post, hs, hv, rfl⟩
        cases v with
        | nil => rfl
        | cons a v =>
          obtain ⟨rfl, -⟩ := List.cons.inj hs
          exact absurd List.mem_cons_self hv
    · have htail : findHead [q] (c :: s) = (findHead [q] s).map (· + 1) := by simp [findHead, hc]
      rw [htail, Option.map_eq_some_iff]
      constructor
      · rintro ⟨n, hn, rfl⟩
        obtain ⟨v, post, rfl, hv, rfl⟩ := (ih n).mp hn
        exact ⟨c :: v, post, rfl, by simp [hc, hv], rfl⟩
      · rintro ⟨v, post, hs, hv, rfl⟩
        cases v with
        | nil => exact absurd (List.cons.inj hs).1.symm hc
        | cons a v =>
          obtain ⟨rfl, rfl⟩ := List.cons.inj hs
          exact ⟨v.length, (ih _).mpr ⟨v, post, rfl, List.not_mem_of_not_mem_cons hv, rfl⟩, rfl⟩

/-- The first place of a byte after a front part. -/
theorem find_singleton_after_eq_some_iff (q : Byte) (front rest : Bytes) (j : Nat) :
    find (front ++ rest) [q] front.length = some j ↔
      ∃ v post, rest = v ++ q :: post ∧ q ∉ v ∧ j = front.length + v.length := by
  unfold find
  rw [List.drop_left, Option.map_eq_some_iff]
  constructor
  · rintro ⟨i, hi, rfl⟩
    obtain ⟨v, post, hrest, hv, rfl⟩ := (findHead_singleton_eq_some_iff q rest i).mp hi
    exact ⟨v, post, hrest, hv, Nat.add_comm _ _⟩
  · rintro ⟨v, post, hrest, hv, rfl⟩
    exact ⟨v.length, (findHead_singleton_eq_some_iff q rest _).mpr ⟨v, post, hrest, hv, rfl⟩, Nat.add_comm _ _⟩

end Sys2Proof

namespace Sys2Proof.Machine

/-- A field has a text where both searches of FieldText find. -/
theorem fieldText_eq_some_iff {r k v : Bytes} :
    fieldText r k = some v ↔ ∃ i j, find r (keyPattern k) 0 = some i
      ∧ find r [chQuote] (i + (keyPattern k).length) = some j ∧ slice r (i + (keyPattern k).length) j = v := by
  unfold fieldText
  cases hkey : find r (keyPattern k) 0 with
  | none => simp
  | some i =>
    cases hquote : find r [chQuote] (i + (keyPattern k).length) with
    | none => simp [-keyPattern_length, hquote]
    | some j => simp [-keyPattern_length, hquote]

/-- A field's text in terms of the cuts of the record (R191). -/
theorem fieldText_eq_some_iff_exists_append {r k v : Bytes} :
    fieldText r k = some v ↔ ∃ pre post, r = pre ++ keyPattern k ++ v ++ chQuote :: post ∧ chQuote ∉ v
      ∧ ∀ n, n < pre.length → slice r n (n + (keyPattern k).length) ≠ keyPattern k := by
  have hp : keyPattern k ≠ [] := List.cons_ne_nil _ _
  rw [fieldText_eq_some_iff]
  constructor
  · rintro ⟨i, j, hkey, hquote, rfl⟩
    obtain ⟨pre, rest, rfl, rfl, hfirst⟩ := (find_zero_eq_some_iff hp).mp hkey
    rw [← List.append_assoc, ← List.length_append] at hquote ⊢
    obtain ⟨v, post, rfl, hv, rfl⟩ := (find_singleton_after_eq_some_iff _ _ _ _).mp hquote
    rw [slice_append_middle]
    exact ⟨pre, post, by simp only [List.append_assoc], hv, by simpa only [List.append_assoc] using hfirst⟩
  · rintro ⟨pre, post, hr, hv, hfirst⟩
    have hcut : r = (pre ++ keyPattern k) ++ (v ++ chQuote :: post) := by rw [hr]; simp only [List.append_assoc]
    refine ⟨pre.length, (pre ++ keyPattern k).length + v.length,
      (find_zero_eq_some_iff hp).mpr ⟨pre, v ++ chQuote :: post, by rw [hcut, List.append_assoc], rfl, hfirst⟩, ?_, ?_⟩
    · rw [hcut, ← List.length_append]
      exact (find_singleton_after_eq_some_iff _ _ _ _).mpr ⟨v, post, rfl, hv, rfl⟩
    · rw [hcut, ← List.length_append]
      exact slice_append_middle _ _ _

/-- Settles O37. -/
theorem fieldTextIsTheFirstQuotedValue : Obligations.FieldTextIsTheFirstQuotedValue := by
  intro r k v
  rw [fieldText_eq_some_iff_exists_append, keyPattern_length]
  rfl

end Sys2Proof.Machine
end

section
/-! PROOF. The decimal parse: white space, a sign, leading digits (spec 42_json_decoder.md R192). -/

namespace Sys2Proof.Machine

/-- The first byte of a text, where there is one, is `p`. -/
def HeadIs (p : Byte → Prop) (t : Bytes) : Prop := ∀ c, t.head? = some c → p c

theorem headIs_cons {p : Byte → Prop} {c : Byte} {t : Bytes} : HeadIs p (c :: t) ↔ p c := by
  simp [HeadIs]

theorem HeadIs.mono {p q : Byte → Prop} {t : Bytes} (h : HeadIs p t) (hpq : ∀ c, p c → q c) : HeadIs q t :=
  fun c hc => hpq c (h c hc)

/-- The first byte of two texts put together is the first text's, or the second's after an empty one. -/
theorem headIs_append {p : Byte → Prop} {t u : Bytes} (ht : ∀ c ∈ t, p c) (hu : t = [] → HeadIs p u) :
    HeadIs p (t ++ u) := by
  cases t with
  | nil => exact hu rfl
  | cons c t => exact headIs_cons.mpr (ht c List.mem_cons_self)

/-- The reading of digits stops at the first non-digit. -/
theorem readDigits_of_not_digit {t : Bytes} (ht : HeadIs (fun c => ¬ isDigit c = true) t) (n : Nat) :
    readDigits n t = n := by
  cases t with
  | nil => rfl
  | cons c t => exact if_neg (headIs_cons.mp ht)

/-- Digits are read most significant first, and what does not go on with a digit is not read. -/
theorem readDigits_digits_append {digits rest : Bytes} (hd : ∀ c ∈ digits, isDigit c = true)
    (hrest : HeadIs (fun c => ¬ isDigit c = true) rest) (n : Nat) :
    readDigits n (digits ++ rest) = digits.foldl (fun n c => 10 * n + (c.toNat - 0x30)) n := by
  induction digits generalizing n with
  | nil => exact readDigits_of_not_digit hrest n
  | cons c digits ih =>
    obtain ⟨hc, hd⟩ := List.forall_mem_cons.mp hd
    rw [List.cons_append, readDigits, if_pos hc, ih hd, List.foldl_cons]

theorem readSigned_minus (t : Bytes) : readSigned (chMinus :: t) = -(readDigits 0 t : Int) := rfl

theorem readSigned_plus (t : Bytes) : readSigned (chPlus :: t) = (readDigits 0 t : Int) := rfl

theorem readSigned_unsigned {t : Bytes} (ht : HeadIs (fun c => c ≠ chMinus ∧ c ≠ chPlus) t) :
    readSigned t = (readDigits 0 t : Int) := by
  cases t with
  | nil => rfl
  | cons c t =>
    obtain ⟨hminus, hplus⟩ := headIs_cons.mp ht
    rw [readSigned, if_neg hminus, if_neg hplus]

/-- Leading white space is skipped, all of it. -/
theorem decText_space_append {ws t : Bytes} (hws : ∀ c ∈ ws, isSpace c = true)
    (ht : HeadIs (fun c => ¬ isSpace c = true) t) : decText (ws ++ t) = readSigned t := by
  rw [decText, List.dropWhile_append_of_pos hws]
  cases t with
  | nil => rfl
  | cons c t => rw [List.dropWhile_cons_of_neg (headIs_cons.mp ht)]

theorem decText_plus {ws : Bytes} (hws : ∀ c ∈ ws, isSpace c = true) (t : Bytes) :
    decText (ws ++ ([0x2B#8] ++ t)) = (readDigits 0 t : Int) :=
  (decText_space_append hws (headIs_cons.mpr (by decide))).trans (readSigned_plus t)

theorem decText_minus {ws : Bytes} (hws : ∀ c ∈ ws, isSpace c = true) (t : Bytes) :
    decText (ws ++ ([0x2D#8] ++ t)) = -(readDigits 0 t : Int) :=
  (decText_space_append hws (headIs_cons.mpr (by decide))).trans (readSigned_minus t)

/-- A byte that DecParse neither skips as white space nor takes as a sign. -/
def NoSpaceOrSign (c : Byte) : Prop := ¬ isSpace c = true ∧ c ≠ chMinus ∧ c ≠ chPlus

theorem noSpaceOrSign_of_isDigit {c : Byte} (h : isDigit c = true) : NoSpaceOrSign c := by
  obtain ⟨hlo, -⟩ := (isDigit_iff c).mp h
  refine ⟨fun hspace => ?_, ?_, ?_⟩
  · rcases (isSpace_iff c).mp hspace with rfl | rfl | rfl | rfl <;> exact absurd hlo (by decide)
  all_goals
    rintro rfl
    exact absurd hlo (by decide)

/-- Settles O38, by the sign. -/
theorem decimalPrefixParse : Obligations.DecimalPrefixParse := by
  intro ws sign digits rest hws hsign hdigits hrest
  have hws : ∀ c ∈ ws, isSpace c = true := fun c hc => (isSpace_iff c).mpr (hws c hc)
  have hdigits : ∀ c ∈ digits, isDigit c = true := fun c hc => (isDigit_iff c).mpr (hdigits c hc)
  have hstop : HeadIs (fun c => ¬ isDigit c = true) rest := fun c hc hdigit =>
    (hrest c hc).1 ((isDigit_iff c).mp hdigit)
  have hvalue := readDigits_digits_append hdigits hstop 0
  rw [List.append_assoc, List.append_assoc]
  rcases hsign with rfl | rfl | rfl
  · have hhead : HeadIs NoSpaceOrSign (digits ++ rest) :=
      headIs_append (fun c hc => noSpaceOrSign_of_isDigit (hdigits c hc)) fun hnil c hc => by
        obtain ⟨h20, h09, h0B, h0C, hplus, hminus⟩ := (hrest c hc).2 rfl hnil
        exact ⟨by simp [isSpace_iff, h20, h09, h0B, h0C], hminus, hplus⟩
    rw [List.nil_append, decText_space_append hws (hhead.mono fun _ h => h.1),
      readSigned_unsigned (hhead.mono fun _ h => h.2), hvalue, if_neg (by decide), one_mul]
  · rw [decText_plus hws, hvalue, if_neg (by decide), one_mul]
  · rw [decText_minus hws, hvalue, if_pos rfl, neg_one_mul]

end Sys2Proof.Machine
end

section
/-! PROOF. What a JSON record publishes (spec 42_json_decoder.md R194 to R199, 41_record_decoder.md R140). -/

namespace Sys2Proof.Machine

theorem accept_nonneg_iff (v : IntW) : accept .nonneg v = true ↔ 0 ≤ v := decide_eq_true_iff

theorem accept_notMinus1_iff (v : IntW) : accept .notMinus1 v = true ↔ v ≠ -1 := decide_eq_true_iff

theorem accept_absentValue (a : JsonAccept) : accept a absentValue = false := by
  cases a <;> rfl

theorem fieldValue_of_absent {r k : Bytes} (h : fieldText r k = none) (s : State) :
    fieldValue r k s = (absentValue, s) := by
  rw [fieldValue, h]

theorem fieldValue_of_inRange {r k t : Bytes} {s : State} (h : fieldText r k = some t)
    (hfits : IntFits s.cfg.intW (decText t)) : fieldValue r k s = (decText t, s) := by
  simp only [fieldValue, h, decParse, (inRange_iff _ _).mpr hfits, if_true]

/-- Settles O39. -/
theorem acceptRule : Obligations.AcceptRule := by
  refine ⟨accept_nonneg_iff, accept_notMinus1_iff, accept_absentValue, fun s r k habsent => ?_⟩
  rw [fieldValue_of_absent habsent]
  exact ⟨rfl, rfl⟩

theorem fieldReads_of_absent {w n : Nat} {r k : Bytes} {v : IntW} (h : fieldText r k = none) :
    FieldReads w r k v n ↔ v = -1 ∧ n = 0 := by
  rw [FieldReads, h]

theorem fieldReads_of_fits {w n : Nat} {r k t : Bytes} {v : IntW} (h : fieldText r k = some t)
    (hfits : IntFits w (decText t)) : FieldReads w r k v n ↔ v = decText t ∧ n = 0 := by
  simp only [FieldReads, h, if_pos hfits]

theorem fieldReads_of_not_fits {w n : Nat} {r k t : Bytes} {v : IntW} (h : fieldText r k = some t)
    (hfits : ¬ IntFits w (decText t)) : FieldReads w r k v n ↔ IntFits w v ∧ n = 1 := by
  simp only [FieldReads, h, if_neg hfits]

/-- What a field reads as is one of the values R191 to R194 allow: absent, in range, or drawn. -/
theorem fieldValue_reads (r k : Bytes) (s : State) : ∃ n, FieldReads s.cfg.intW r k (fieldValue r k s).1 n := by
  cases htext : fieldText r k with
  | none => exact ⟨0, (fieldReads_of_absent htext).mpr ⟨by rw [fieldValue_of_absent htext]; rfl, rfl⟩⟩
  | some t =>
    by_cases hfits : IntFits s.cfg.intW (decText t)
    · exact ⟨0, (fieldReads_of_fits htext hfits).mpr ⟨by rw [fieldValue_of_inRange htext hfits], rfl⟩⟩
    · exact ⟨1, (fieldReads_of_not_fits htext hfits).mpr ⟨fieldValue_fits r k s, rfl⟩⟩

/-- All that the two publishes of a JSON record do (R195, R198): the filter of each looks at its own
register, so the first does not change what the second emits (R199). -/
theorem publishJson_eq (top st : IntW) (s : State) :
    publishJson top st s = { s with
      last := { s.last with
        level := if accept s.cfg.jsonAccept top = true then some top else s.last.level
        stateRaw := if accept s.cfg.jsonAccept st = true then some st else s.last.stateRaw }
      evOut := s.evOut
        ++ ((if accept s.cfg.jsonAccept top = true then eventIfNew s.cfg.sinkEn s.last (.level top) else [])
          ++ (if accept s.cfg.jsonAccept st = true then eventIfNew s.cfg.sinkEn s.last (.stateRaw st) else [])) } := by
  have hother : eventIfNew s.cfg.sinkEn (store s.last (.level top)) (.stateRaw st)
      = eventIfNew s.cfg.sinkEn s.last (.stateRaw st) :=
    eventIfNew_congr _ (regPub_store_other nofun)
  simp only [publishJson, publishIf_eq, List.append_assoc]
  cases accept s.cfg.jsonAccept top with
  | false => cases accept s.cfg.jsonAccept st <;> rfl
  | true =>
    simp only [if_true, hother]
    cases accept s.cfg.jsonAccept st <;> rfl

/-- DEC_JSON reads both fields, of which only draws remain in the state, and publishes them (R195). -/
theorem exec_decJson (r : Bytes) (s : State) : ∃ d, exec (.decJson r) s
    = .next (publishJson (fieldValue r keyTop s).1 (fieldValue r keyState (fieldValue r keyTop s).2).1
        (withDraws d s)) := by
  obtain ⟨d1, h1⟩ := fieldValue_withDraws r keyTop s
  obtain ⟨d2, h2⟩ := fieldValue_withDraws r keyState (fieldValue r keyTop s).2
  have hstate : (fieldValue r keyState (fieldValue r keyTop s).2).2 = withDraws d2 s := by rw [h2, h1]; rfl
  exact ⟨d2, congrArg (fun t => Host.Outcome.next (publishJson _ _ t)) hstate⟩

/-- Settles O40. -/
theorem jsonRecordPublishesItsFields : Obligations.JsonRecordPublishesItsFields := by
  intro s r
  obtain ⟨n1, htop⟩ := fieldValue_reads r keyTop s
  obtain ⟨n2, hst⟩ := fieldValue_reads r keyState (fieldValue r keyTop s).2
  rw [fieldValue_cfg] at hst
  obtain ⟨d, hexec⟩ := exec_decJson r s
  refine ⟨_, _, n1, n2, d, htop, hst, ?_⟩
  rw [hexec, publishJson_eq]
  rfl

/-- A level frame of two hex digits leaves their number in LAST_LEVEL, where INT_W holds it (R147). -/
theorem exec_decLevel2053_level {s t : State} {c1 c2 : Byte} {h l : Nat} {tail : Bytes} (hw : 9 ≤ s.cfg.intW)
    (h1 : hv c1 = some h) (h2 : hv c2 = some l) (hexec : exec (.decLevel2053 c1 c2 tail) s = .next t) :
    t.last.level = some (16 * h + l : Int) := by
  rw [exec_decLevel2053_digits h1 h2, zextInt_eq hw, toNat_of_digits h1 h2, publish_eq] at hexec
  cases hexec
  push_cast
  rfl

/-- A register of 9 bits or more holds the number of two hex digits. -/
theorem digits_fit {w : Nat} (hw : 9 ≤ w) {c1 c2 : Byte} {h l : Nat} (h1 : hv c1 = some h) (h2 : hv c2 = some l) :
    IntFits w (16 * h + l) := by
  have hfits := zextInt_fits w (BitVec.ofNat 8 (16 * h + l))
  rw [zextInt_eq hw, toNat_of_digits h1 h2] at hfits
  exact_mod_cast hfits

/-- A JSON record whose `top` is the level already held emits nothing on LEVEL (R140, R196). -/
theorem level_notMem_newEvents_of_held {s t : State} {r txt : Bytes} (htext : fieldText r keyTop = some txt)
    (hfits : IntFits s.cfg.intW (decText txt)) (hheld : s.last.level = some (decText txt))
    (hexec : exec (.decJson r) s = .next t) (v : IntW) : Event.pub (.level v) ∉ newEvents s t := by
  obtain ⟨top, st, n1, n2, d, htop, -, hnext⟩ := jsonRecordPublishesItsFields s r
  obtain ⟨rfl, -⟩ := (fieldReads_of_fits htext hfits).mp htop
  cases hexec.symm.trans hnext
  have hsilent : eventIfNew s.cfg.sinkEn s.last (.level (decText txt)) = [] :=
    eventIfNew_of_holds (congrArg (Option.map Pub.level) hheld)
  rw [newEvents_of_append rfl, hsilent, ite_self, List.nil_append]
  split
  · exact fun hmem => nomatch eq_pub_of_mem_eventIfNew hmem
  · exact List.not_mem_nil

/-- Settles O41: the hex frame leaves its number in the register that the JSON level is filtered by. -/
theorem levelIsSharedBetweenPaths : Obligations.LevelIsSharedBetweenPaths := by
  intro s t u r txt tail c1 c2 h l hw h1 h2 htext hnum hlevel hjson
  have hcfg : t.cfg = s.cfg := exec_cfg hlevel
  refine level_notMem_newEvents_of_held htext ?_ ?_ hjson
  · rw [hcfg, hnum]
    exact digits_fit hw h1 h2
  · rw [hnum]
    exact exec_decLevel2053_level hw h1 h2 hlevel

end Sys2Proof.Machine
end

section
/-! PROOF. Runs without a stop and without input (spec 60_exceptions.md R220, R226, R233, R236). -/

namespace Sys2Proof.Machine

theorem step_idle {s : State} (h : s.input = []) : step s = .next s := by
  rw [step, fetch, h]

/-- Settles O5. -/
theorem idleStepKeepsTheState : Obligations.IdleStepKeepsTheState :=
  fun _ h => step_idle h

/-- No run of any length stops: each step goes on, and so does the run that follows it. -/
theorem run_total (n : Nat) (s : State) : ∃ t, Sys2Proof.core.run n s = .next t := by
  induction n generalizing s with
  | zero => exact ⟨s, rfl⟩
  | succ n ih =>
    obtain ⟨u, hu⟩ := step_total s
    rw [run_succ hu]
    exact ih u

/-- Settles O6. -/
theorem noRunEverStops : Obligations.NoRunEverStops :=
  ⟨fun s n => run_total n s, exec_total⟩

end Sys2Proof.Machine
end

section
/-! PROOF. Which conditions an operation can raise (spec 60_exceptions.md R221, R228): a lemma for each
function of Machine/Conditions.lean, and what excludes what. -/

namespace Sys2Proof.Machine

theorem mem_payloadConditions {c1 c2 : Byte} {x : Condition} (h : x ∈ payloadConditions c1 c2) :
    x = .malformedPayload := by
  unfold payloadConditions at h
  split at h
  · exact List.mem_singleton.mp h
  · cases h

theorem mem_modeConditions {m : Byte} {s : State} {x : Condition} :
    x ∈ modeConditions m s ↔ x = .unmappedMode ∧ lookup s.cfg.modeTable m = none := by
  unfold modeConditions
  split <;> simp [*]

theorem mem_modeFrameConditions {c1 c2 : Byte} {s : State} {x : Condition} (h : x ∈ modeFrameConditions c1 c2 s) :
    x = .malformedPayload ∨ x = .unmappedMode := by
  rcases List.mem_append.mp h with hpayload | hmode
  · exact .inl (mem_payloadConditions hpayload)
  · split at hmode
    · cases hmode
    · exact .inr (mem_modeConditions.mp hmode).1

/-- A mode frame raises X4 exactly for the unmapped byte of its pair, and never where the pair is IGNORE. -/
theorem unmappedMode_mem_modeFrameConditions {c1 c2 : Byte} {s : State} :
    .unmappedMode ∈ modeFrameConditions c1 c2 s
      ↔ ∃ m, (hex2 c1 c2 s).1 = some m ∧ lookup s.cfg.modeTable m = none := by
  have hpayload : .unmappedMode ∉ payloadConditions c1 c2 := fun h => nomatch mem_payloadConditions h
  cases hpair : (hex2 c1 c2 s).1 with
  | none => simp [modeFrameConditions, hpair, hpayload]
  | some m => simp [modeFrameConditions, hpair, hpayload, mem_modeConditions]

/-- DEC_OTHER raises one condition: X8, X6 or X2. -/
theorem otherConditions_eq_singleton (lead : Bool) (r : Bytes) :
    ∃ z, z ≠ .unmappedMode ∧ otherConditions lead r = [z] := by
  unfold otherConditions
  cases stripLead lead r with
  | none => exact ⟨.noLead, nofun, rfl⟩
  | some t =>
    dsimp only
    split
    · exact ⟨.shortFrame, nofun, rfl⟩
    · exact ⟨.unrecognised, nofun, rfl⟩

theorem mem_fieldConditions {w : Nat} {r k : Bytes} {x : Condition} (h : x ∈ fieldConditions w r k) :
    x = .jsonFieldAbsent ∨ x = .decRange := by
  unfold fieldConditions at h
  cases htext : fieldText r k with
  | none =>
    rw [htext] at h
    exact .inl (List.mem_singleton.mp h)
  | some t =>
    simp only [htext] at h
    split at h
    · cases h
    · exact .inr (List.mem_singleton.mp h)

theorem mem_jsonConditions {w : Nat} {r : Bytes} {x : Condition} (h : x ∈ jsonConditions w r) :
    x = .jsonFieldAbsent ∨ x = .decRange :=
  (List.mem_append.mp h).elim mem_fieldConditions mem_fieldConditions

/-- FEED_OTHER raises X1 only where no JSON record completes, else only what its record raises (R228). -/
theorem mem_otherByteConditions {b : Byte} {s : State} {x : Condition} (h : x ∈ otherByteConditions b s) :
    (x = .overflow ∧ jsonBounds (s.buf ++ [b]) = none) ∨ x = .jsonFieldAbsent ∨ x = .decRange := by
  unfold otherByteConditions at h
  cases hjson : jsonBounds (Memory.append s.buf b) with
  | some ij =>
    rw [hjson] at h
    exact .inr (mem_jsonConditions h)
  | none =>
    simp only [hjson] at h
    split at h
    · exact .inl ⟨List.mem_singleton.mp h, hjson⟩
    · cases h

/-- A flushed record raises what the operation it decodes to raises (40_reassembler.md R119). -/
theorem flushedConditions_eq_raised (r : Bytes) (s : State) :
    flushedConditions r s = raised (decodeFlushed s.cfg.hexLeadRequired r) s := by
  unfold flushedConditions decodeFlushed
  cases stripLead s.cfg.hexLeadRequired r with
  | none => rfl
  | some t =>
    simp only [decodeStripped]
    cases hexRow t <;> rfl

theorem boundaryConditions_idle {s : State} (h : s.buf = []) : boundaryConditions s = [] := by
  simp [boundaryConditions, h, Memory.len]

theorem boundaryConditions_pending {s : State} (h : s.buf ≠ []) :
    boundaryConditions s = raised (decodeFlushed s.cfg.hexLeadRequired s.buf) s := by
  have hlen : 0 < Memory.len s.buf := List.length_pos_of_ne_nil h
  rw [boundaryConditions, if_pos hlen, flushedConditions_eq_raised]

/-- A mode code raises the conditions of the byte it classifies. -/
theorem exists_byte_of_modeCode {i : Instr} (hi : sourceOf i = .modeByte) (s : State) :
    ∃ m, raised i s = modeConditions m s ∧ exec i s = .next (classify m s) := by
  cases i
  case mode00 | mode01 | mode04 | mode08 | mode10 | mode14 | modeOther => exact ⟨_, rfl, rfl⟩
  all_goals cases hi

/-- The conditions of which one operation raises at most one: X2, X3, X4, X6 and X8 (R228). -/
def exclusiveConditions : List Condition := [.unrecognised, .ignoredHeartbeat, .unmappedMode, .shortFrame, .noLead]

/-- Of the exclusive conditions a list holds none but `z`. -/
def ExclusivelyAtMost (z : Condition) (cs : List Condition) : Prop := ∀ x ∈ cs, x ∈ exclusiveConditions → x = z

theorem exclusivelyAtMost_singleton (z : Condition) : ExclusivelyAtMost z [z] := fun _ hx _ => List.mem_singleton.mp hx

theorem payloadConditions_exclusive (z : Condition) (c1 c2 : Byte) : ExclusivelyAtMost z (payloadConditions c1 c2) := by
  intro x hx hexcl
  rw [mem_payloadConditions hx] at hexcl
  exact absurd hexcl (by decide)

theorem modeFrameConditions_exclusive (c1 c2 : Byte) (s : State) :
    ExclusivelyAtMost .unmappedMode (modeFrameConditions c1 c2 s) := by
  intro x hx hexcl
  rcases mem_modeFrameConditions hx with rfl | rfl
  · exact absurd hexcl (by decide)
  · rfl

theorem jsonConditions_exclusive (z : Condition) (w : Nat) (r : Bytes) : ExclusivelyAtMost z (jsonConditions w r) := by
  intro x hx hexcl
  rcases mem_jsonConditions hx with rfl | rfl <;> exact absurd hexcl (by decide)

theorem otherByteConditions_exclusive (z : Condition) (b : Byte) (s : State) :
    ExclusivelyAtMost z (otherByteConditions b s) := by
  intro x hx hexcl
  rcases mem_otherByteConditions hx with ⟨rfl, -⟩ | rfl | rfl <;> exact absurd hexcl (by decide)

/-- One record or mode code raises at most one exclusive condition: its row decides which (R228). -/
theorem raised_decoder_exclusive {i : Instr} (hi : sourceOf i ≠ .byteIn) (s : State) :
    ∃ z, ExclusivelyAtMost z (raised i s) := by
  by_cases hmode : sourceOf i = .modeByte
  · obtain ⟨m, hraised, -⟩ := exists_byte_of_modeCode hmode s
    rw [hraised]
    exact ⟨.unmappedMode, fun x hx _ => (mem_modeConditions.mp hx).1⟩
  · cases i
    case decLevel2053 c1 c2 tail => exact ⟨.unmappedMode, payloadConditions_exclusive _ c1 c2⟩
    case decMode1053 c1 c2 tail => exact ⟨.unmappedMode, modeFrameConditions_exclusive c1 c2 s⟩
    case decJson r => exact ⟨.unmappedMode, jsonConditions_exclusive _ _ r⟩
    case decOther r =>
      obtain ⟨z, -, hz⟩ := otherConditions_eq_singleton s.cfg.hexLeadRequired r
      exact ⟨z, by rw [raised, hz]; exact exclusivelyAtMost_singleton z⟩
    case feedCr | feedLf | feedLt | feedOther => exact absurd rfl hi
    case mode00 | mode01 | mode04 | mode08 | mode10 | mode14 | modeOther => exact absurd rfl hmode
    all_goals exact ⟨_, exclusivelyAtMost_singleton .ignoredHeartbeat⟩

theorem boundaryConditions_exclusive (s : State) : ∃ z, ExclusivelyAtMost z (boundaryConditions s) := by
  by_cases hbuf : s.buf = []
  · rw [boundaryConditions_idle hbuf]
    exact ⟨.noLead, nofun⟩
  · rw [boundaryConditions_pending hbuf]
    exact raised_decoder_exclusive (decodeFlushed_not_byteIn _ _) s

/-- Every operation raises at most one exclusive condition: a boundary dispatches at most one record, and
FEED_OTHER only a JSON record. -/
theorem raised_exclusive (i : Instr) (s : State) : ∃ z, ExclusivelyAtMost z (raised i s) := by
  by_cases hi : sourceOf i = .byteIn
  · cases i
    case feedCr | feedLf | feedLt => exact boundaryConditions_exclusive s
    case feedOther b => exact ⟨.noLead, otherByteConditions_exclusive _ b s⟩
    all_goals cases hi
  · exact raised_decoder_exclusive hi s

/-- Settles O51. -/
theorem conditionsExcludeEachOther : Obligations.ConditionsExcludeEachOther := by
  refine ⟨fun s b h => ?_, fun i s x y hx hy hxr hyr => ?_⟩
  · rcases mem_otherByteConditions h with ⟨-, hnone⟩ | h | h
    · exact hnone
    · cases h
    · cases h
  · obtain ⟨z, hz⟩ := raised_exclusive i s
    exact (hz x hxr hx).trans (hz y hyr hy).symm

end Sys2Proof.Machine
end

section
/-! PROOF. The condition X4 and the warning event (spec 60_exceptions.md R221, R224, R230). -/

namespace Sys2Proof.Machine

/-- A warning is among the events added from `s` to `t`. -/
def Warns (s t : State) : Prop := ∃ m, Event.warn m ∈ newEvents s t

theorem not_warns_of_append {s t : State} {new : List Event} (hnew : t.evOut = s.evOut ++ new)
    (h : ∀ m, Event.warn m ∉ new) : ¬ Warns s t := by
  rintro ⟨m, hm⟩
  rw [newEvents_of_append hnew] at hm
  exact h m hm

theorem not_warns_of_evOut_eq {s t : State} (h : t.evOut = s.evOut) : ¬ Warns s t :=
  not_warns_of_append (new := []) (by rw [h, List.append_nil]) nofun

/-- Whether there is a warning can be read off the event lists alone. -/
theorem warns_congr {s s' t t' : State} (hs : s.evOut = s'.evOut) (ht : t.evOut = t'.evOut) :
    Warns s t ↔ Warns s' t' := by
  simp only [Warns, newEvents, hs, ht]

/-- A classification warns exactly of a byte without a row (R230). -/
theorem warns_classify_iff (m : Byte) (s : State) : Warns s (classify m s) ↔ lookup s.cfg.modeTable m = none := by
  cases hrow : lookup s.cfg.modeTable m with
  | none => exact iff_of_true ⟨m, List.mem_of_mem_head? (head_newEvents_of_unmapped hrow)⟩ rfl
  | some r => exact iff_of_false (fun ⟨c, hc⟩ => warn_notMem_of_mapped hrow c hc) nofun

theorem not_warns_publish (p : Pub) (s : State) : ¬ Warns s (publish p s) :=
  not_warns_of_append (by rw [publish_eq]) fun m => warn_notMem_eventIfNew m _ _ _

theorem not_warns_publishJson (top st : IntW) (s : State) : ¬ Warns s (publishJson top st s) := by
  refine not_warns_of_append (by rw [publishJson_eq]) fun m hm => ?_
  rcases List.mem_append.mp hm with hm | hm
  all_goals
    split at hm
    · exact warn_notMem_eventIfNew m _ _ _ hm
    · cases hm

/-- An operation that classifies no mode byte emits no warning (30_encoding.md R104). -/
theorem DecoderResult.not_warns {i : Instr} {s t : State} (h : DecoderResult s i t)
    (hframe : ∀ c1 c2 tail, i ≠ .decMode1053 c1 c2 tail) (hcode : sourceOf i ≠ .modeByte) : ¬ Warns s t := by
  cases h with
  | dropped _ _ => exact not_warns_of_evOut_eq rfl
  | level c1 c2 tail v d => exact not_warns_publish _ (withDraws d s)
  | modeFrame c1 c2 tail m d => exact absurd rfl (hframe c1 c2 tail)
  | modeCode _ _ hi => exact absurd hi hcode
  | json r top st d => exact not_warns_publishJson top st (withDraws d s)

/-- Nor does it raise X4. -/
theorem unmappedMode_notMem_raised {i : Instr} (hi : sourceOf i ≠ .byteIn)
    (hframe : ∀ c1 c2 tail, i ≠ .decMode1053 c1 c2 tail) (hcode : sourceOf i ≠ .modeByte) (s : State) :
    .unmappedMode ∉ raised i s := by
  intro h
  cases i
  case decLevel2053 => cases mem_payloadConditions h
  case decMode1053 c1 c2 tail => exact hframe c1 c2 tail rfl
  case decOther r =>
    obtain ⟨z, hne, hz⟩ := otherConditions_eq_singleton s.cfg.hexLeadRequired r
    rw [raised, hz] at h
    exact hne (List.mem_singleton.mp h).symm
  case decJson => rcases mem_jsonConditions h with h | h <;> cases h
  case feedCr | feedLf | feedLt | feedOther => exact hi rfl
  case mode00 | mode01 | mode04 | mode08 | mode10 | mode14 | modeOther => exact hcode rfl
  all_goals cases List.mem_singleton.mp h

/-- A mode frame warns exactly of the byte its pair gives, where that byte has no row. -/
theorem execDecMode1053_warns_iff {c1 c2 : Byte} {tail : Bytes} {s t : State}
    (h : execDecMode1053 c1 c2 tail s = .next t) :
    Warns s t ↔ ∃ m, (hex2 c1 c2 s).1 = some m ∧ lookup s.cfg.modeTable m = none := by
  unfold execDecMode1053 at h
  obtain ⟨d, hd⟩ := hex2_withDraws c1 c2 s
  cases hpair : hex2 c1 c2 s with
  | mk o u =>
    rw [hpair] at hd h
    subst hd
    cases o with
    | none =>
      cases h
      simpa using not_warns_of_evOut_eq (s := s) (t := withDraws d s) rfl
    | some m =>
      rw [modeFrame, runModeByte_eq] at h
      cases h
      have hclassify : Warns s (classify m (withDraws d s)) ↔ lookup s.cfg.modeTable m = none :=
        warns_classify_iff m (withDraws d s)
      simpa using hclassify

/-- A record or mode code raises X4 exactly where it emits a warning. -/
theorem exec_decoder_warns_iff {i : Instr} (hi : sourceOf i ≠ .byteIn) {s t : State} (h : exec i s = .next t) :
    .unmappedMode ∈ raised i s ↔ Warns s t := by
  by_cases hcode : sourceOf i = .modeByte
  · obtain ⟨m, hraised, hexec⟩ := exists_byte_of_modeCode hcode s
    cases h.symm.trans hexec
    rw [hraised, mem_modeConditions, warns_classify_iff]
    exact and_iff_right rfl
  · by_cases hframe : ∃ c1 c2 tail, i = .decMode1053 c1 c2 tail
    · obtain ⟨c1, c2, tail, rfl⟩ := hframe
      exact unmappedMode_mem_modeFrameConditions.trans (execDecMode1053_warns_iff (tail := tail) h).symm
    · have hframe : ∀ c1 c2 tail, i ≠ .decMode1053 c1 c2 tail := fun c1 c2 tail hi => hframe ⟨c1, c2, tail, hi⟩
      exact iff_of_false (unmappedMode_notMem_raised hi hframe hcode s)
        ((exec_decoder_result hi h).not_warns hframe hcode)

/-- A boundary raises and emits what the record it flushes does; from an empty buffer, nothing. -/
theorem boundary_warns_iff {s t : State}
    (h : (s.buf = [] ∧ t.evOut = s.evOut)
      ∨ (s.buf ≠ [] ∧ ∃ u, exec (decodeFlushed s.cfg.hexLeadRequired s.buf) s = .next u ∧ t.evOut = u.evOut)) :
    .unmappedMode ∈ boundaryConditions s ↔ Warns s t := by
  rcases h with ⟨hbuf, hev⟩ | ⟨hbuf, u, hu, hev⟩
  · rw [boundaryConditions_idle hbuf]
    exact iff_of_false nofun (not_warns_of_evOut_eq hev)
  · rw [boundaryConditions_pending hbuf, warns_congr rfl hev]
    exact exec_decoder_warns_iff (decodeFlushed_not_byteIn _ _) hu

theorem execFeedOther_not_warns {b : Byte} {s t : State} (h : execFeedOther b s = .next t) : ¬ Warns s t := by
  rcases execFeedOther_cases h with ⟨i, j, u, -, hu, rfl⟩ | ⟨-, -, rfl⟩ | ⟨-, -, rfl⟩
  · have hquiet : ¬ Warns (bufAppend b s) u := (execDecJson_result hu).not_warns nofun nofun
    exact hquiet
  · exact not_warns_of_evOut_eq rfl
  · exact not_warns_of_evOut_eq rfl

/-- Settles O50. -/
theorem warningExactlyWhenUnmapped : Obligations.WarningExactlyWhenUnmapped := by
  intro i s t h
  by_cases hi : sourceOf i = .byteIn
  · cases i
    case feedCr | feedLf =>
      refine boundary_warns_iff ((flushBoundary_cases h).imp ?_ ?_)
      · exact fun ⟨hbuf, ht⟩ => ⟨hbuf, by rw [ht]⟩
      · exact fun ⟨hbuf, u, hu, ht⟩ => ⟨hbuf, u, hu, by rw [ht, bufClear_evOut]⟩
    case feedLt =>
      refine boundary_warns_iff ((execFeedLt_cases h).imp ?_ ?_)
      · exact fun ⟨hbuf, ht⟩ => ⟨hbuf, by rw [ht, bufSetLT_evOut]⟩
      · exact fun ⟨hbuf, u, hu, ht⟩ => ⟨hbuf, u, hu, by rw [ht, bufSetLT_evOut]⟩
    case feedOther b =>
      have hraised : .unmappedMode ∉ raised (.feedOther b) s := fun hmem => by
        rcases mem_otherByteConditions hmem with ⟨h, -⟩ | h | h <;> cases h
      exact iff_of_false hraised (execFeedOther_not_warns h)
    all_goals cases hi
  · exact exec_decoder_warns_iff hi h

end Sys2Proof.Machine
end

section
/-! PROOF. Reset, and the first values after it (spec 70_reset_and_hazards.md R250, R252). -/

namespace Sys2Proof.Machine

/-! ## Reset -/

/-- A step that finds RST takes it off the inputs and resets (10_state.md R37). -/
theorem step_rst {s : State} {rest : List Stimulus} (h : s.input = .rst :: rest) :
    step s = .next (assertReset { s with input := rest }) := by
  rw [step, fetch, h]

theorem newEvents_of_evOut_eq {s t : State} (h : t.evOut = s.evOut) : newEvents s t = [] :=
  newEvents_of_append (h.trans (List.append_nil s.evOut).symm)

/-- Settles O1. -/
theorem resetLoadsTheResetValues : Obligations.ResetLoadsTheResetValues := by
  refine ⟨fun cfg => ?construction, rfl, fun s rest hin => ?rst⟩
  case construction =>
    exact ⟨resetWith_buf cfg, resetWith_last cfg, resetWith_inRefresh cfg, resetWith_evOut cfg, resetWith_cfg cfg⟩
  case rst =>
    exact ⟨_, step_rst hin, assertReset_buf _, assertReset_last _, assertReset_inRefresh _,
      newEvents_of_evOut_eq (assertReset_evOut _), assertReset_cfg _, assertReset_input _⟩

/-! ## The first values -/

/-- A register at NONE equals no value, so an enabled channel publishes whatever comes first (R252). -/
theorem eventIfNew_of_none {e : SinkEn} {r : LastRegs} {p : Pub} (hnone : regPub r p.channel = none)
    (hsink : sinkEnabled e p.channel = true) : eventIfNew e r p = [.pub p] := by
  have hnew : regPub r p.channel ≠ some p := by rw [hnone]; exact nofun
  exact if_pos ⟨hnew, hsink⟩

theorem regPub_initLastNone (c : Channel) : regPub initLastNone c = none := by
  cases c <;> rfl

theorem sinkEnabled_all (c : Channel) : sinkEnabled ⟨true, true, true, true, true, true⟩ c = true := by
  cases c <;> rfl

/-- From NONE everywhere and with every sink there, no publish is filtered out (R252). -/
theorem eventIfNew_first {s : State} (hlast : s.last = initLastNone)
    (hsinks : s.cfg.sinkEn = ⟨true, true, true, true, true, true⟩) (p : Pub) :
    eventIfNew s.cfg.sinkEn s.last p = [.pub p] := by
  rw [hlast, hsinks]
  exact eventIfNew_of_none (regPub_initLastNone _) (sinkEnabled_all _)

/-- A field that is read without a draw has one value: -1 if absent, else its number (R192, R194). -/
theorem FieldReads.value_unique {w n : Nat} {r k : Bytes} {v u : IntW} (hread : FieldReads w r k v 0)
    (hread' : FieldReads w r k u n) : u = v := by
  cases htext : fieldText r k with
  | none =>
    obtain ⟨rfl, -⟩ := (fieldReads_of_absent htext).mp hread
    exact ((fieldReads_of_absent htext).mp hread').1
  | some t =>
    by_cases hfits : IntFits w (decText t)
    · obtain ⟨rfl, -⟩ := (fieldReads_of_fits htext hfits).mp hread
      exact ((fieldReads_of_fits htext hfits).mp hread').1
    · obtain ⟨-, hdrawn⟩ := (fieldReads_of_not_fits htext hfits).mp hread
      cases hdrawn

/-- The events of a JSON record whose two fields are read without a draw and accepted (R195, R198). -/
theorem newEvents_decJson_of_accepted {s : State} {r : Bytes} {top st : IntW}
    (htop : FieldReads s.cfg.intW r keyTop top 0) (hst : FieldReads s.cfg.intW r keyState st 0)
    (htopOk : accept s.cfg.jsonAccept top = true) (hstOk : accept s.cfg.jsonAccept st = true) :
    ∃ t, exec (.decJson r) s = .next t
      ∧ newEvents s t = eventIfNew s.cfg.sinkEn s.last (.level top) ++ eventIfNew s.cfg.sinkEn s.last (.stateRaw st) := by
  obtain ⟨top', st', n1, n2, d, htop', hst', hexec⟩ := jsonRecordPublishesItsFields s r
  obtain rfl := htop.value_unique htop'
  obtain rfl := hst.value_unique hst'
  refine ⟨_, hexec, newEvents_of_append ?_⟩
  simp only [htopOk, hstOk, if_true]

/-- Settles O36. -/
theorem firstValuesAreAlwaysPublished : Obligations.FirstValuesAreAlwaysPublished := by
  intro s hlast hsinks
  have hfirst := eventIfNew_first hlast hsinks
  refine ⟨fun m => ?mode, fun r top st htop hst htopOk hstOk => ?json⟩
  case mode =>
    obtain ⟨mode, hnew⟩ := newEvents_classify m s
    refine ⟨classify m s, mode, resolveStatus (lookup s.cfg.modeTable m), resolveSource (lookup s.cfg.modeTable m),
      exec_decodeMode m s, ?_⟩
    rw [hnew]
    simp only [hfirst, List.append_assoc, List.cons_append, List.nil_append]
  case json =>
    obtain ⟨t, hexec, hnew⟩ := newEvents_decJson_of_accepted htop hst htopOk hstOk
    refine ⟨t, hexec, ?_⟩
    rw [hnew, hfirst, hfirst, List.singleton_append]

end Sys2Proof.Machine
end
